-- ==== Sys2Proof/Word.lean ====
section
/-! DEFINITION. The words of the SSP protocol engine (spec/00_scope.md R10): bytes, 16-, 32- and
64-bit unsigned values, the 7-bit device address, and the 16-byte cipher block. -/

namespace Sys2Proof

/-- A byte, bit 0 least significant (R10). -/
abbrev Byte := BitVec 8

/-- A 16-bit value: CRC registers, seeds and polynomials (R140). -/
abbrev Word16 := BitVec 16

/-- A 32-bit value: a replay counter (10_state.md R45). -/
abbrev Word32 := BitVec 32

/-- A 64-bit value: a negotiation value or key (30_encoding.md R113). -/
abbrev Word64 := BitVec 64

/-- A 7-bit device address (30_encoding.md R102). -/
abbrev Addr := BitVec 7

/-- Four bytes of a cipher block, FIPS-197 input bytes `in_{4j} .. in_{4j+3}`: one column of the
AES state (20_memory.md R76). -/
structure Col where
  b0 : Byte
  b1 : Byte
  b2 : Byte
  b3 : Byte
deriving DecidableEq, Repr

/-- A 16-byte cipher block or key: FIPS-197 input bytes `in_0 .. in_15` as four columns
(20_memory.md R75, R76). -/
structure Block where
  c0 : Col
  c1 : Col
  c2 : Col
  c3 : Col
deriving DecidableEq, Repr

end Sys2Proof
end

