-- ==== Sys2Proof/Machine/Bytes.lean ====
section
/-! DEFINITION. Byte order and slices: the little-endian helpers of spec/00_scope.md R13, the list
primitives of R11, and the conversion between byte lists and cipher blocks (20_memory.md R76). -/

namespace Sys2Proof.Machine

/-- `LE_n(v)`: the `n` low bytes of `v`, least significant first (00_scope.md R13). -/
def leBytes : Nat → Nat → List Byte
  | 0, _ => []
  | n + 1, v => BitVec.ofNat 8 v :: leBytes n (v / 256)

/-- `fromLE(xs)`: the sum of `xs[i]·2^(8i)` (00_scope.md R13). -/
def fromLE : List Byte → Nat
  | [] => 0
  | b :: bs => b.toNat + 256 * fromLE bs

/-- `xs[i]` (00_scope.md R11). Every rule guards the read, so the default is never seen. -/
def byteAt (xs : List Byte) (i : Nat) : Byte := xs.getD i 0

/-- `xs[i..j]`, both ends included, empty when `j < i` (00_scope.md R11). -/
def slice (xs : List Byte) (i j : Nat) : List Byte := (xs.drop i).take (j + 1 - i)

/-- Bits 7..0 of a 16-bit value. -/
def lowByte (w : Word16) : Byte := w.extractLsb' 0 8

/-- Bits 15..8 of a 16-bit value. -/
def highByte (w : Word16) : Byte := w.extractLsb' 8 8

/-- A 16-bit value as `[w[7:0], w[15:8]]` (20_memory.md R71, R77). -/
def crcBytes (w : Word16) : List Byte := [lowByte w, highByte w]

/-- Four list bytes from index `i`, as a column. -/
def colAt (xs : List Byte) (i : Nat) : Col :=
  ⟨byteAt xs i, byteAt xs (i + 1), byteAt xs (i + 2), byteAt xs (i + 3)⟩

/-- Sixteen list bytes as a cipher block, list byte `i` being input byte `in_i` (20_memory.md R76). -/
def blockOfBytes (xs : List Byte) : Block := ⟨colAt xs 0, colAt xs 4, colAt xs 8, colAt xs 12⟩

def colBytes (c : Col) : List Byte := [c.b0, c.b1, c.b2, c.b3]

/-- A cipher block as its sixteen bytes in order (20_memory.md R76). -/
def blockBytes (b : Block) : List Byte :=
  colBytes b.c0 ++ (colBytes b.c1 ++ (colBytes b.c2 ++ colBytes b.c3))

end Sys2Proof.Machine
end

