-- ==== Sys2Proof/Config.lean ====
section
/-! DEFINITION. What an implementation fixes: the configuration record CFG0-CFG15
(spec/10_state.md R31) with the parameter BAUD_RATE (00_scope.md R8), profile SSP (R9), the
constants of R8 that no configuration changes, and the free values of the draw input (R16). -/

namespace Sys2Proof

/-- The configuration registers CFG0-CFG15 (10_state.md R31) and BAUD_RATE (00_scope.md R8), which
no rule reads. No operation writes one (R32). -/
structure Config where
  /-- CFG0 -/
  crcSeed : Word16
  /-- CFG1 -/
  crcPoly : Word16
  /-- CFG2 -/
  stx : Byte
  /-- CFG3 -/
  encMarker : Byte
  /-- CFG4 -/
  seqInit : Bool
  /-- CFG5 -/
  minSpacing : Nat
  /-- CFG6 -/
  fixedKey : Word64
  /-- CFG7 -/
  okCode : Byte
  /-- CFG8 -/
  notProcessedCode : Byte
  /-- CFG9 -/
  busySubreason : Byte
  /-- CFG10 -/
  syncCode : Byte
  /-- CFG11 -/
  setGeneratorCode : Byte
  /-- CFG12 -/
  setModulusCode : Byte
  /-- CFG13 -/
  keyExchangeCode : Byte
  /-- CFG14 -/
  primeBits : Nat
  /-- CFG15 -/
  secretBound : Nat
  /-- BAUD_RATE (00_scope.md R8; 60_exceptions.md R343) -/
  baudRate : Nat
deriving DecidableEq, Repr

/-- Profile SSP (00_scope.md R9) with the configured values of 10_state.md R31.
PRESUMED, unsafe where a claim rests on it: the spec marks the OPEN values crcSeed, crcPoly,
fixedKey and baudRate as general knowledge. DESIGN CHOICE, unsafe where a claim rests on it:
primeBits and secretBound are OPEN with no profile value; the largest legal ones are taken, so that
the draws range as widely as any legal configuration lets them. Log entry 2. -/
def Config.ssp : Config where
  crcSeed := 0xFFFF
  crcPoly := 0x8005
  stx := 0x7F
  encMarker := 0x7E
  seqInit := false
  minSpacing := 200
  fixedKey := 0x0123456701234567
  okCode := 0xF0
  notProcessedCode := 0xF5
  busySubreason := 3
  syncCode := 0x11
  setGeneratorCode := 0x4A
  setModulusCode := 0x4B
  keyExchangeCode := 0x4C
  primeBits := 64
  secretBound := 2 ^ 64
  baudRate := 9600

/-- WIRE_ADDR_MAX (00_scope.md R8): the largest address of the 7-bit field. -/
def wireAddrMax : Nat := 127

/-- MAX_PAYLOAD (00_scope.md R8): the most bytes of a plain command. -/
def maxPayload : Nat := 250

/-- MAX_INNER (00_scope.md R8, 30_encoding.md R110): the most bytes of an encrypted command. -/
def maxInner : Nat := 233

/-- The value of the `n`-th free draw (00_scope.md R16: "The model quantifies over every such value,
under no law beyond membership of S"). It has no body: nothing can be proved of which value it is.
It is used once the draw input of State holds no more values. Log entry 5. -/
opaque Config.freeDraw : Nat → Nat

end Sys2Proof
end

