-- ==== Sys2Proof/Syntax.lean ====
section
/-! DEFINITION. The instructions: one constructor for each row of spec/opcode_table.json, the 18
operations and events of 30_encoding.md R121 and the 10 wire command and response rows of R107,
R116 and R117. -/

namespace Sys2Proof

/-- The operand fields of a Command record (10_state.md R54). Its response fields `status` and `resp`
are the host's; the engine hands them back as the exchange's result (44_link_fsm.md R277). -/
structure Command where
  addr : Byte
  enc : Bool
  key : Option Word64
  retry : Nat
  timeout : Nat
  cmd : List Byte
deriving DecidableEq, Repr

/-- The direction of AES_BLOCK (42_symmetric_codec.md R190). -/
inductive Direction where
  | enc
  | dec
deriving DecidableEq, Repr

/-- One constructor for each row of spec/opcode_table.json. -/
inductive Instr where
  /-- CRC16, 40_crc.md R140 -/
  | crc16 (xs : List Byte) (seed poly : Word16)
  /-- CRC_CHECK, 40_crc.md R146 -/
  | crcCheck (xs : List Byte) (lo hi : Byte) (seed poly : Word16)
  /-- MODEXP, 41_key_negotiation.md R160 -/
  | modexp (b e m : Word64)
  /-- NEGOTIATE, 41_key_negotiation.md R170 -/
  | negotiate (addr : Byte) (retry timeout : Nat)
  /-- AES_BLOCK, 42_symmetric_codec.md R190 -/
  | aesBlock (key block : Block) (dir : Direction)
  /-- ENVELOPE, 42_symmetric_codec.md R193 -/
  | envelope (inner : List Byte) (ctr : Word32)
  /-- ENCRYPT, 42_symmetric_codec.md R196 -/
  | encrypt (inner : List Byte) (ctr : Word32) (key : Word64)
  /-- DECRYPT, 42_symmetric_codec.md R200 -/
  | decrypt (payload : List Byte) (key : Word64) (ctr : Word32)
  /-- FRAME_ENCODE, 43_frame_codec.md R220 -/
  | frameEncode (addr : Byte) (seq : Bool) (payload : List Byte)
  /-- STUFF, 43_frame_codec.md R222: the body is `first :: rest`, so it is never empty -/
  | stuff (first : Byte) (rest : List Byte)
  /-- RX_BYTE, 43_frame_codec.md R224 -/
  | rxByte (b : Byte)
  /-- RX_RESET, 43_frame_codec.md R240 -/
  | rxReset (addr : Addr)
  /-- SEND_COMMAND, 44_link_fsm.md R260 -/
  | sendCommand (c : Command)
  /-- RESET, 70_reset_and_hazards.md R370 -/
  | reset
  /-- TIME, 60_exceptions.md R341 -/
  | time (t : Nat)
  /-- OPEN, 60_exceptions.md R343 -/
  | openPort (port : List Byte)
  /-- CLOSE, 60_exceptions.md R343 -/
  | closePort
  /-- DOWNLOAD, 60_exceptions.md R345 -/
  | download (v : Bool)
  /-- SYNC, 45_wire_commands.md R310, sent as 30_encoding.md R123 expands it -/
  | sync (addr : Byte) (retry timeout : Nat)
  /-- SET_GENERATOR, 45_wire_commands.md R311 -/
  | setGenerator (generator : Word64) (addr : Byte) (retry timeout : Nat)
  /-- SET_MODULUS, 45_wire_commands.md R312 -/
  | setModulus (modulus : Word64) (addr : Byte) (retry timeout : Nat)
  /-- REQUEST_KEY_EXCHANGE, 45_wire_commands.md R313 -/
  | requestKeyExchange (intermediate : Word64) (addr : Byte) (retry timeout : Nat)
  /-- OTHER_COMMAND, 45_wire_commands.md R314: byte 0 is `code`, the rest `params` -/
  | otherCommand (code : Byte) (params : List Byte) (addr : Byte) (enc : Bool)
      (key : Option Word64) (retry timeout : Nat)
  /-- OK, 45_wire_commands.md R315, in a frame with address+sequence byte `sa` -/
  | ok (sa : Byte) (data : List Byte)
  /-- DEVICE_BUSY, 45_wire_commands.md R317; `more` is the data after the sub-reason byte -/
  | deviceBusy (sa : Byte) (more : List Byte)
  /-- COMMAND_NOT_PROCESSED, 45_wire_commands.md R316 -/
  | commandNotProcessed (sa : Byte) (data : List Byte)
  /-- OTHER_STATUS, 45_wire_commands.md R318 -/
  | otherStatus (status : Byte) (sa : Byte) (data : List Byte)
  /-- ENCRYPTED_PACKET, 45_wire_commands.md R319: the payload is the marker and then `cipher` -/
  | encryptedPacket (sa : Byte) (cipher : List Byte)
deriving DecidableEq, Repr

end Sys2Proof
end

