-- ==== Sys2Proof/WellFormed.lean ====
section
/-! DEFINITION. The checks an instruction must pass: the rows of spec/opcode_table.json that a code or
a first data byte tells apart (30_encoding.md R116, R117), and the length byte that a response
payload must fit (30_encoding.md R103: "On receive, any value 0..255 is accepted"). -/

namespace Sys2Proof

/-- The command codes that have a row of their own (30_encoding.md R116). -/
def reservedCommandCodes : List Byte := [0x11, 0x4A, 0x4B, 0x4C]

/-- The first payload bytes of a response that have a row of their own (30_encoding.md R117, R107). -/
def reservedStatusCodes : List Byte := [0xF0, 0xF5, 0x7E]

/-- The most bytes a received payload can hold (30_encoding.md R103). -/
def maxReceived : Nat := 255

/-- An instruction is well formed when its operands select the row it is written as. -/
def Instr.wf : Instr → Bool
  | .crc16 _ _ _ => true
  | .crcCheck _ _ _ _ _ => true
  | .modexp _ _ _ => true
  | .negotiate _ _ _ => true
  | .aesBlock _ _ _ => true
  | .envelope _ _ => true
  | .encrypt _ _ _ => true
  | .decrypt _ _ _ => true
  | .frameEncode _ _ _ => true
  | .stuff _ _ => true
  | .rxByte _ => true
  | .rxReset _ => true
  | .sendCommand _ => true
  | .reset => true
  | .time _ => true
  | .openPort _ => true
  | .closePort => true
  | .download _ => true
  | .sync _ _ _ => true
  | .setGenerator _ _ _ _ => true
  | .setModulus _ _ _ _ => true
  | .requestKeyExchange _ _ _ _ => true
  | .otherCommand code _ _ _ _ _ _ => !reservedCommandCodes.contains code
  | .ok _ data => decide (data.length + 1 ≤ maxReceived)
  | .deviceBusy _ more => decide (more.length + 2 ≤ maxReceived)
  | .commandNotProcessed _ data =>
      decide (data.length + 1 ≤ maxReceived) && decide (data.head? ≠ some 3)
  | .otherStatus status _ data =>
      decide (data.length + 1 ≤ maxReceived) && !reservedStatusCodes.contains status
  | .encryptedPacket _ cipher => decide (cipher.length + 1 ≤ maxReceived)

end Sys2Proof
end

