-- ==== Sys2Proof/Decode.lean ====
section
/-! DEFINITION. The decoder and, after it, the encoder.

The engine has no instruction words (spec/30_encoding.md, opening). An operation is tagged by its
selector (R121), a command payload by its code (R116), a response payload by its first bytes (R117,
R107). The three code spaces overlap (0x11 is both OPEN's selector and SYNC's code), so a message on
the model's port carries the format its bytes are in, the "format" of spec/opcode_table.json. After
the row's own bytes come its operands, in an encoding that is the model's own: DESIGN CHOICE, safe,
log entry 7. Fixed-width values are little-endian, naturals are in base 128 (seven bits a byte, low
group first, bit 7 set on every byte but the last), byte lists carry their length first. -/

namespace Sys2Proof

open Sys2Proof.Machine

/-- The format a port message is in (30_encoding.md R100): an operation selector with operands
(R121), a command payload (F-CMD, R111), or a response payload (F-RESP and F-ENCPAY, R112, R107). -/
inductive Format where
  | operation
  | command
  | response
deriving DecidableEq, Repr

/-- Why bytes encode no instruction. -/
inductive DecodeError where
  /-- the message holds no byte at all -/
  | empty
  /-- the bytes end before the operands do -/
  | truncated
  /-- the first byte is no selector of 30_encoding.md R121 -/
  | unknownSelector (b : Byte)
  /-- an operand of one bit is neither 0 nor 1 -/
  | badFlag (b : Byte)
  /-- a 7-bit address operand is above 127 (30_encoding.md R102) -/
  | addressTooLarge (b : Byte)
  /-- a response whose byte 1 is not its first data byte -/
  | subReasonMismatch (b : Byte)
  /-- a response payload longer than a length byte can say (30_encoding.md R103) -/
  | payloadTooLong
  /-- bytes other than zeros follow the instruction -/
  | trailingBytes
deriving DecidableEq, Repr

/-! ### Reading operands -/

def readByte : List Byte → Except DecodeError (Byte × List Byte)
  | [] => .error .truncated
  | b :: bs => .ok (b, bs)

def readBytes (n : Nat) (bs : List Byte) : Except DecodeError (List Byte × List Byte) :=
  if bs.length < n then .error .truncated else .ok (bs.take n, bs.drop n)

def readFixed (n w : Nat) (bs : List Byte) : Except DecodeError (BitVec w × List Byte) := do
  let (xs, bs) ← readBytes n bs
  .ok (BitVec.ofNat w (fromLE xs), bs)

/-- A natural in base 128, low group first; bit 7 says that another byte follows. -/
def readNat : List Byte → Except DecodeError (Nat × List Byte)
  | [] => .error .truncated
  | b :: bs =>
    if b.toNat < 128 then .ok (b.toNat, bs)
    else
      match readNat bs with
      | .ok (n, rest) => .ok (b.toNat - 128 + 128 * n, rest)
      | .error e => .error e

def readList (bs : List Byte) : Except DecodeError (List Byte × List Byte) := do
  let (n, bs) ← readNat bs
  readBytes n bs

def readFlag (bs : List Byte) : Except DecodeError (Bool × List Byte) := do
  let (b, bs) ← readByte bs
  if b = 0 then .ok (false, bs) else if b = 1 then .ok (true, bs) else .error (.badFlag b)

def readDirection (bs : List Byte) : Except DecodeError (Direction × List Byte) := do
  let (v, bs) ← readFlag bs
  .ok (if v then .dec else .enc, bs)

def readKey (bs : List Byte) : Except DecodeError (Option Word64 × List Byte) := do
  let (present, bs) ← readFlag bs
  if present then
    let (k, bs) ← readFixed 8 64 bs
    .ok (some k, bs)
  else .ok (none, bs)

def readAddr (bs : List Byte) : Except DecodeError (Addr × List Byte) := do
  let (b, bs) ← readByte bs
  if b.toNat ≤ 127 then .ok (b.setWidth 7, bs) else .error (.addressTooLarge b)

def readBlock (bs : List Byte) : Except DecodeError (Block × List Byte) := do
  let (xs, bs) ← readBytes 16 bs
  .ok (blockOfBytes xs, bs)

/-! ### The decoder -/

/-- A message of the operation port (30_encoding.md R121). -/
def decodeOperation : List Byte → Except DecodeError (Instr × List Byte)
  | [] => .error .empty
  | sel :: bs =>
    match sel.toNat with
    | 0x01 => do
      let (xs, bs) ← readList bs
      let (seed, bs) ← readFixed 2 16 bs
      let (poly, bs) ← readFixed 2 16 bs
      .ok (.crc16 xs seed poly, bs)
    | 0x02 => do
      let (xs, bs) ← readList bs
      let (lo, bs) ← readByte bs
      let (hi, bs) ← readByte bs
      let (seed, bs) ← readFixed 2 16 bs
      let (poly, bs) ← readFixed 2 16 bs
      .ok (.crcCheck xs lo hi seed poly, bs)
    | 0x03 => do
      let (b, bs) ← readFixed 8 64 bs
      let (e, bs) ← readFixed 8 64 bs
      let (m, bs) ← readFixed 8 64 bs
      .ok (.modexp b e m, bs)
    | 0x04 => do
      let (addr, bs) ← readByte bs
      let (retry, bs) ← readNat bs
      let (timeout, bs) ← readNat bs
      .ok (.negotiate addr retry timeout, bs)
    | 0x05 => do
      let (key, bs) ← readBlock bs
      let (block, bs) ← readBlock bs
      let (dir, bs) ← readDirection bs
      .ok (.aesBlock key block dir, bs)
    | 0x06 => do
      let (inner, bs) ← readList bs
      let (ctr, bs) ← readFixed 4 32 bs
      .ok (.envelope inner ctr, bs)
    | 0x07 => do
      let (inner, bs) ← readList bs
      let (ctr, bs) ← readFixed 4 32 bs
      let (key, bs) ← readFixed 8 64 bs
      .ok (.encrypt inner ctr key, bs)
    | 0x08 => do
      let (payload, bs) ← readList bs
      let (key, bs) ← readFixed 8 64 bs
      let (ctr, bs) ← readFixed 4 32 bs
      .ok (.decrypt payload key ctr, bs)
    | 0x09 => do
      let (addr, bs) ← readByte bs
      let (seq, bs) ← readFlag bs
      let (payload, bs) ← readList bs
      .ok (.frameEncode addr seq payload, bs)
    | 0x0A => do
      let (first, bs) ← readByte bs
      let (rest, bs) ← readList bs
      .ok (.stuff first rest, bs)
    | 0x0B => do
      let (b, bs) ← readByte bs
      .ok (.rxByte b, bs)
    | 0x0C => do
      let (addr, bs) ← readAddr bs
      .ok (.rxReset addr, bs)
    | 0x0D => do
      let (addr, bs) ← readByte bs
      let (enc, bs) ← readFlag bs
      let (key, bs) ← readKey bs
      let (retry, bs) ← readNat bs
      let (timeout, bs) ← readNat bs
      let (cmd, bs) ← readList bs
      .ok (.sendCommand ⟨addr, enc, key, retry, timeout, cmd⟩, bs)
    | 0x0E => .ok (.reset, bs)
    | 0x10 => do
      let (t, bs) ← readNat bs
      .ok (.time t, bs)
    | 0x11 => do
      let (port, bs) ← readList bs
      .ok (.openPort port, bs)
    | 0x12 => .ok (.closePort, bs)
    | 0x13 => do
      let (v, bs) ← readFlag bs
      .ok (.download v, bs)
    | _ => .error (.unknownSelector sel)

/-- A command payload with the Command fields it is sent with (30_encoding.md R111, R116, R123).
OTHER_COMMAND takes every code that no other row has (R118: "No command code is illegal"). -/
def decodeCommand : List Byte → Except DecodeError (Instr × List Byte)
  | [] => .error .empty
  | code :: bs =>
    match code.toNat with
    | 0x11 => do
      let (addr, bs) ← readByte bs
      let (retry, bs) ← readNat bs
      let (timeout, bs) ← readNat bs
      .ok (.sync addr retry timeout, bs)
    | 0x4A => do
      let (v, bs) ← readFixed 8 64 bs
      let (addr, bs) ← readByte bs
      let (retry, bs) ← readNat bs
      let (timeout, bs) ← readNat bs
      .ok (.setGenerator v addr retry timeout, bs)
    | 0x4B => do
      let (v, bs) ← readFixed 8 64 bs
      let (addr, bs) ← readByte bs
      let (retry, bs) ← readNat bs
      let (timeout, bs) ← readNat bs
      .ok (.setModulus v addr retry timeout, bs)
    | 0x4C => do
      let (v, bs) ← readFixed 8 64 bs
      let (addr, bs) ← readByte bs
      let (retry, bs) ← readNat bs
      let (timeout, bs) ← readNat bs
      .ok (.requestKeyExchange v addr retry timeout, bs)
    | _ => do
      let (params, bs) ← readList bs
      let (addr, bs) ← readByte bs
      let (enc, bs) ← readFlag bs
      let (key, bs) ← readKey bs
      let (retry, bs) ← readNat bs
      let (timeout, bs) ← readNat bs
      .ok (.otherCommand code params addr enc key retry timeout, bs)

/-- A response payload with the address+sequence byte of its frame (30_encoding.md R112, R117). The
marker row is checked before every status row (R120), DEVICE_BUSY before COMMAND_NOT_PROCESSED. The bytes
that select a row are the table's, 0x7E, 0xF0, 0xF5 and 3, whatever the configuration holds for them:
DESIGN CHOICE, safe, log entry 33. -/
def decodeResponse : List Byte → Except DecodeError (Instr × List Byte)
  | [] => .error .empty
  | status :: bs =>
    match status.toNat with
    | 0x7E => do
      let (sa, bs) ← readByte bs
      let (cipher, bs) ← readList bs
      .ok (.encryptedPacket sa cipher, bs)
    | 0xF0 => do
      let (sa, bs) ← readByte bs
      let (data, bs) ← readList bs
      .ok (.ok sa data, bs)
    | 0xF5 => do
      let (sub, bs) ← readByte bs
      let (sa, bs) ← readByte bs
      let (data, bs) ← readList bs
      if sub = 3 then .ok (.deviceBusy sa data, bs)
      else if data.headD 0 = sub then .ok (.commandNotProcessed sa data, bs)
      else .error (.subReasonMismatch sub)
    | _ => do
      let (sa, bs) ← readByte bs
      let (data, bs) ← readList bs
      .ok (.otherStatus status sa data, bs)

def decodeRow : Format → List Byte → Except DecodeError (Instr × List Byte)
  | .operation, bs => decodeOperation bs
  | .command, bs => decodeCommand bs
  | .response, bs => decodeResponse bs

/-- The decoder, total on any bytes in any format. Only zeros may follow the instruction. -/
def decode (fmt : Format) (bs : List Byte) : Except DecodeError Instr := do
  let (i, rest) ← decodeRow fmt bs
  if rest.all (· == 0) then
    if i.wf then .ok i else .error .payloadTooLong
  else .error .trailingBytes

/-! ### The encoder -/

/-- A natural in base 128; `fuel` bounds the number of bytes after the first. -/
def writeNatFuel : Nat → Nat → List Byte
  | 0, n => [BitVec.ofNat 8 n]
  | fuel + 1, n =>
    if n < 128 then [BitVec.ofNat 8 n]
    else BitVec.ofNat 8 (128 + n % 128) :: writeNatFuel fuel (n / 128)

def writeNat (n : Nat) : List Byte := writeNatFuel n n

def writeList (xs : List Byte) : List Byte := writeNat xs.length ++ xs

def writeFixed (n : Nat) {w : Nat} (v : BitVec w) : List Byte := leBytes n v.toNat

def writeFlag (v : Bool) : List Byte := [if v then 1 else 0]

def writeDirection : Direction → List Byte
  | .enc => [0]
  | .dec => [1]

def writeKey : Option Word64 → List Byte
  | none => [0]
  | some k => 1 :: writeFixed 8 k

/-- The format of the row an instruction is written as. -/
def Instr.format : Instr → Format
  | .crc16 _ _ _ => .operation
  | .crcCheck _ _ _ _ _ => .operation
  | .modexp _ _ _ => .operation
  | .negotiate _ _ _ => .operation
  | .aesBlock _ _ _ => .operation
  | .envelope _ _ => .operation
  | .encrypt _ _ _ => .operation
  | .decrypt _ _ _ => .operation
  | .frameEncode _ _ _ => .operation
  | .stuff _ _ => .operation
  | .rxByte _ => .operation
  | .rxReset _ => .operation
  | .sendCommand _ => .operation
  | .reset => .operation
  | .time _ => .operation
  | .openPort _ => .operation
  | .closePort => .operation
  | .download _ => .operation
  | .sync _ _ _ => .command
  | .setGenerator _ _ _ _ => .command
  | .setModulus _ _ _ _ => .command
  | .requestKeyExchange _ _ _ _ => .command
  | .otherCommand _ _ _ _ _ _ _ => .command
  | .ok _ _ => .response
  | .deviceBusy _ _ => .response
  | .commandNotProcessed _ _ => .response
  | .otherStatus _ _ _ => .response
  | .encryptedPacket _ _ => .response

/-- The bytes of an instruction: the row's own bytes (30_encoding.md R121, R116, R117, R107), then
its operands. -/
def encode : Instr → List Byte
  | .crc16 xs seed poly => 0x01 :: (writeList xs ++ writeFixed 2 seed ++ writeFixed 2 poly)
  | .crcCheck xs lo hi seed poly =>
      0x02 :: (writeList xs ++ [lo, hi] ++ writeFixed 2 seed ++ writeFixed 2 poly)
  | .modexp b e m => 0x03 :: (writeFixed 8 b ++ writeFixed 8 e ++ writeFixed 8 m)
  | .negotiate addr retry timeout => 0x04 :: addr :: (writeNat retry ++ writeNat timeout)
  | .aesBlock key block dir => 0x05 :: (blockBytes key ++ blockBytes block ++ writeDirection dir)
  | .envelope inner ctr => 0x06 :: (writeList inner ++ writeFixed 4 ctr)
  | .encrypt inner ctr key => 0x07 :: (writeList inner ++ writeFixed 4 ctr ++ writeFixed 8 key)
  | .decrypt payload key ctr =>
      0x08 :: (writeList payload ++ writeFixed 8 key ++ writeFixed 4 ctr)
  | .frameEncode addr seq payload => 0x09 :: addr :: (writeFlag seq ++ writeList payload)
  | .stuff first rest => 0x0A :: first :: writeList rest
  | .rxByte b => [0x0B, b]
  | .rxReset addr => [0x0C, addr.setWidth 8]
  | .sendCommand c =>
      0x0D :: c.addr :: (writeFlag c.enc ++ writeKey c.key ++ writeNat c.retry ++
        writeNat c.timeout ++ writeList c.cmd)
  | .reset => [0x0E]
  | .time t => 0x10 :: writeNat t
  | .openPort port => 0x11 :: writeList port
  | .closePort => [0x12]
  | .download v => 0x13 :: writeFlag v
  | .sync addr retry timeout => 0x11 :: addr :: (writeNat retry ++ writeNat timeout)
  | .setGenerator v addr retry timeout =>
      0x4A :: (writeFixed 8 v ++ [addr] ++ writeNat retry ++ writeNat timeout)
  | .setModulus v addr retry timeout =>
      0x4B :: (writeFixed 8 v ++ [addr] ++ writeNat retry ++ writeNat timeout)
  | .requestKeyExchange v addr retry timeout =>
      0x4C :: (writeFixed 8 v ++ [addr] ++ writeNat retry ++ writeNat timeout)
  | .otherCommand code params addr enc key retry timeout =>
      code :: (writeList params ++ [addr] ++ writeFlag enc ++ writeKey key ++ writeNat retry ++
        writeNat timeout)
  | .ok sa data => 0xF0 :: sa :: writeList data
  | .deviceBusy sa more => 0xF5 :: 0x03 :: sa :: writeList more
  | .commandNotProcessed sa data => 0xF5 :: data.headD 0 :: sa :: writeList data
  | .otherStatus status sa data => status :: sa :: writeList data
  | .encryptedPacket sa cipher => 0x7E :: sa :: writeList cipher

/-! ### The opcode table's words -/

/-- The selectors of 30_encoding.md R121. -/
def isSelector (b : Byte) : Bool :=
  (decide (0x01 ≤ b.toNat) && decide (b.toNat ≤ 0x0E)) ||
    (decide (0x10 ≤ b.toNat) && decide (b.toNat ≤ 0x13))

/-- Which format a bare table word is read in. DESIGN CHOICE, safe, log entry 8: the table's rows of
three formats share words, so a word alone cannot say its format. A word of two bytes is a response
(DEVICE_BUSY is the one such row). A selector is an operation; of the other bytes the encrypted
marker and those from 0x80 are responses, the rest commands. -/
def formatOfTableWord (bs : List Byte) : Format :=
  match bs with
  | _ :: _ :: _ => .response
  | [b] =>
    if isSelector b then .operation
    else if b = 0x7E ∨ 0x80 ≤ b.toNat then .response
    else .command
  | [] => .command

/-- The bytes of a table word, the first in the highest bits: "payload bytes 0..1, byte 0 in bits
15:8" (the DEVICE_BUSY row, the only one of more than one byte). -/
def tableBytes : Nat → Nat → List Byte
  | 0, _ => []
  | n + 1, w => BitVec.ofNat 8 (w / 256 ^ n) :: tableBytes n w

/-- The zero operand bytes that may follow a table word; no row takes more when they are zero. -/
def zeroOperands : List Byte := List.replicate 40 0

/-- The instruction the decoder reads from a word of spec/opcode_table.json with zero operands. -/
def decodeTableWord (nbits w : Nat) : Option Instr :=
  let bs := tableBytes (nbits / 8) w
  match decode (formatOfTableWord bs) (bs ++ zeroOperands) with
  | .ok i => some i
  | .error _ => none

end Sys2Proof
end

