-- ==== Sys2Proof/Machine/State.lean ====
section
/-! DEFINITION. The state of the engine (spec/10_state.md R30-R59), the ways a step can stop, and the
state after reset (70_reset_and_hazards.md R370). INVENTORY.md, '## State', lists every element with
its rule and its reset value. -/

namespace Sys2Proof.Machine

open Sys2Proof

/-- `LINK_STATE` (10_state.md R36). -/
inductive LinkState where
  | idle
  | sending
  | awaitingResponse
  | complete
  | timedOut
deriving DecidableEq, Repr

/-- `RX_STATE` (10_state.md R37). -/
inductive RxState where
  | waitStart
  | inFrame
deriving DecidableEq, Repr

/-- `LOCK` (10_state.md R40). -/
inductive Lock where
  | free
  | held
deriving DecidableEq, Repr

/-- The reasons of a refusal, in the order of 60_exceptions.md R331. -/
inductive RefuseReason where
  | badConfig
  | downloadActive
  | invalidAddress
  | keyAbsent
  | payloadTooLong
  | counterExhausted
  | resetInExchange
deriving DecidableEq, Repr

/-- The PACKET_ERROR reasons, in the order of 60_exceptions.md R330. -/
inductive PacketReason where
  | length
  | crc
  | counter
  | innerLength
  | noKey
  | empty
deriving DecidableEq, Repr

/-- The result of SEND_COMMAND (60_exceptions.md R330). The host sees PACKET_ERROR without its
reason, which is model information recorded with the result. -/
inductive Status where
  | resp (s : Byte)
  | busy
  | timeout
  | packetError (reason : PacketReason)
  | portError
deriving DecidableEq, Repr

/-- What an operation hands back to the host (30_encoding.md R121, column "result"). -/
inductive Result where
  | crc16 (crc : Word16)
  | crcCheck (good : Bool)
  /-- `none` is FAIL (41_key_negotiation.md R161) -/
  | modexp (value : Option Word64)
  /-- `none` is FAIL (41_key_negotiation.md R176) -/
  | negotiate (addr : Byte) (key : Option Word64)
  | aesBlock (block : Block)
  | envelope (bytes : List Byte)
  | encrypt (payload : List Byte)
  | decrypt (inner : Except PacketReason (List Byte))
  | frameEncode (frame : List Byte)
  | stuff (frame : List Byte)
  /-- the Command with `status` and `resp` written (44_link_fsm.md R277) -/
  | exchange (c : Command) (status : Status) (resp : List Byte)
  | opened (good : Bool)
deriving DecidableEq, Repr

/-- The deframer's log notes (43_frame_codec.md R224, 60_exceptions.md R346). -/
inductive LogEntry where
  | garbage (b : Byte)
  | restart (buf : List Byte)
  | discardAddress (buf : List Byte)
  | discardCrc (buf : List Byte)
  | ready (buf : List Byte)
deriving DecidableEq, Repr

/-- The deframer: `RX_STATE`, `STUFF`, `READY` (10_state.md R37-R39), `RXBUF`, `RX_TOTAL` and
`EXPECTED_ADDR` (R52). -/
structure Deframer where
  state : RxState
  stuffed : Bool
  ready : Bool
  buf : List Byte
  total : Option Nat
  expected : Option Addr
deriving DecidableEq, Repr

/-- The four commands of a NEGOTIATE, in their order (41_key_negotiation.md R172). -/
inductive NegCommand where
  | sync
  | setGenerator
  | setModulus
  | keyExchange
deriving DecidableEq, Repr

/-- Where a NEGOTIATE stands between two of its steps (41_key_negotiation.md R170), with the registers
`NEG_B` and `NEG_K` (10_state.md R53) from the step that writes them. -/
inductive NegStage where
  /-- at `acquire LOCK ; CTR[a] <- 0 ; release LOCK` (R171) -/
  | resetCounter
  /-- at the SEND_COMMAND of one of its commands (R172) -/
  | command (k : NegCommand)
  /-- at `NEG_K <- MODEXP(NEG_B, NEG_R, NEG_M)` (R175), `NEG_B` written -/
  | derive (b : Word64)
  /-- at `return k`, `NEG_B` and `NEG_K` written -/
  | answer (b k : Word64)
deriving DecidableEq, Repr

/-- A NEGOTIATE in progress: its operands and the negotiation registers `NEG_G`, `NEG_M`, `NEG_R`,
`NEG_A` (10_state.md R53), which exist only during it. Host threads may negotiate concurrently
(60_exceptions.md R344), so each NEGOTIATE has its own. DEDUCED, safe, log entry 11. -/
structure Negotiation where
  addr : Byte
  retry : Nat
  timeout : Nat
  g : Word64
  m : Word64
  r : Word64
  a : Word64
deriving DecidableEq, Repr

/-- The call an exchange belongs to: a host's SEND_COMMAND with its Command, or one of the four
commands of a NEGOTIATE (41_key_negotiation.md R170). -/
inductive Owner where
  | host (c : Command)
  | negotiation (n : Negotiation) (k : NegCommand)
deriving DecidableEq, Repr

/-- A host call between its steps (60_exceptions.md R344): a SEND_COMMAND held at `acquire LOCK`
(20_memory.md R88), or a NEGOTIATE that has no exchange in progress. -/
inductive Call where
  | send (c : Command)
  | negotiation (n : Negotiation) (stage : NegStage)
deriving DecidableEq, Repr

/-- The exchange registers (10_state.md R48): `CUR_ADDR`, `CUR_ENC`, `CUR_KEY`, `CUR_CMD`,
`CUR_TIMEOUT`, `RETRIES_LEFT`, `CUR_SYNC`, `RX_ENC`; and whose exchange it is. -/
structure Exchange where
  owner : Owner
  addr : Addr
  enc : Bool
  key : Option Word64
  cmd : List Byte
  timeout : Nat
  retriesLeft : Nat
  sync : Bool
  rxEnc : Option Bool
deriving DecidableEq, Repr

/-- Whether a write waits for the transport's answer (44_link_fsm.md R268). `doomed` says that the
transport was closed at its issue or since, so that it can only fail (60_exceptions.md R343). DEDUCED,
safe, log entry 13. -/
inductive Write where
  | none
  | pending (doomed : Bool)
deriving DecidableEq, Repr

/-- One move of one agent (00_scope.md R7). -/
inductive Event where
  /-- an operation or event of 30_encoding.md R121, or a wire row, as the port carries it -/
  | operation (fmt : Format) (bytes : List Byte)
  /-- the environment answers the pending write: TXOK or TXFAIL (30_encoding.md R122) -/
  | written (good : Bool)
  /-- the link agent whose exchange is in progress takes its next step, if that is enabled -/
  | exchange
  /-- the `i`-th waiting call takes its next step, if that is enabled -/
  | call (i : Nat)
deriving DecidableEq, Repr

/-- The number of entries of the per-address table, `N_ADDR` (10_state.md R46). -/
abbrev nAddr : Nat := 200

structure State where
  /-- CFG0-CFG15 (10_state.md R31); no step writes it (R32) -/
  cfg : Config
  /-- LINK_STATE (R36) -/
  linkState : LinkState
  /-- RX_STATE, STUFF, READY, RXBUF, RX_TOTAL, EXPECTED_ADDR (R37-R39, R52) -/
  rx : Deframer
  /-- LOCK (R40) -/
  lock : Lock
  /-- DOWNLOAD_ACTIVE (R41) -/
  downloadActive : Bool
  /-- TRANSPORT_OPEN (R42) -/
  transportOpen : Bool
  /-- REFUSED (R43), a set: in the order of `RefuseReason.all`, no reason twice -/
  refused : List RefuseReason
  /-- SEQ[0..199] (R44) -/
  seq : Vector Bool nAddr
  /-- CTR[0..199] (R45) -/
  ctr : Vector Word32 nAddr
  /-- the exchange registers (R48); `none` is absent -/
  cur : Option Exchange
  /-- TXBUF (R49) -/
  txbuf : List Byte
  /-- LAST_TX (R50) -/
  lastTx : Option Nat
  /-- DEADLINE (R51); `none` is absent -/
  deadline : Option Nat
  /-- the time input `now` (R56) -/
  now : Nat
  /-- the MODEL's: the pending write (44_link_fsm.md R268) -/
  write : Write
  /-- the MODEL's: host calls between their steps (60_exceptions.md R344) -/
  calls : List Call
  /-- the MODEL's: the moves the agents will make, the next one first (00_scope.md R6, R7) -/
  events : List Event
  /-- the MODEL's: what the draw input will deliver, the next value first (00_scope.md R6, R16) -/
  draws : List Nat
  /-- the MODEL's: how many free draws were taken -/
  drawCount : Nat
  /-- the MODEL's record of the frames `tx` handed to the transport, oldest first (R350) -/
  sent : List (List Byte)
  /-- the MODEL's record of the results returned, oldest first (R350) -/
  results : List Result
  /-- the MODEL's record of the log notes, oldest first (R346) -/
  log : List LogEntry
deriving DecidableEq, Repr

/-- The engine has no fault outcome: "No rule faults: the engine has no fault outcome, only results
and refusals" (60_exceptions.md R349). So no step raises a fault, and the type has no constructor. -/
inductive Fault where
deriving DecidableEq, Repr

/-- Why a step has no meaning. The refusals of 60_exceptions.md R331 are not among these: they are
next states with a reason in REFUSED. -/
inductive Refusal where
  /-- Raised by an arm of `exec` whose instruction has no meaning yet; no arm does. Safe. -/
  | notModelled (mnemonic : String)
  /-- Raised by `step` when a message on the port encodes no operation. Safe: the spec gives such
  bytes no meaning, and no claim about a next state can be proved of them. -/
  | undecodable (why : DecodeError)
  /-- Raised by TIME when its operand lies before `now`: the time input "never decreases"
  (10_state.md R56), so no such event exists. Safe. Log entry 15. -/
  | timeBackwards
deriving DecidableEq, Repr

/-- The deframer after reset (10_state.md R37-R39, R52): disabled, since no address is expected. -/
def Deframer.reset : Deframer where
  state := .waitStart
  stuffed := false
  ready := false
  buf := []
  total := none
  expected := none

/-- The state right after reset under a configuration (70_reset_and_hazards.md R370), the time input
at 0 and the ports empty. DESIGN CHOICE for `now`, unsafe where a claim rests on it, log entry 3, and
for `drawCount`, safe (nothing is provable of the free draws), log entry 5. -/
def State.resetWith (c : Config) : State where
  cfg := c
  linkState := .idle
  rx := Deframer.reset
  lock := .free
  downloadActive := false
  transportOpen := false
  refused := []
  seq := Vector.replicate nAddr c.seqInit
  ctr := Vector.replicate nAddr 0
  cur := none
  txbuf := []
  lastTx := none
  deadline := none
  now := 0
  write := .none
  calls := []
  events := []
  draws := []
  drawCount := 0
  sent := []
  results := []
  log := []

/-- The machine right after reset: `State.resetWith` profile SSP (00_scope.md R9). Log entry 2. -/
def State.reset : State := State.resetWith Config.ssp

end Sys2Proof.Machine
end

