-- ==== Sys2Proof/Machine/Ops.lean ====
section
/-! DEFINITION. The named operations over the state: the refusal (spec/60_exceptions.md R331, the
engine's one shared way out of an operation that has no meaning; there are no traps, R338), the
lock, the per-address table, the draw input, and the engine's output ports. -/

namespace Sys2Proof.Machine

open Sys2Proof

/-- What a meaning answers. -/
abbrev Out := Host.Outcome State Fault Refusal

/-- The configuration constraints of 10_state.md R33, (a) to (d). The table of R31 gives STX,
MIN_SPACING_MS, BUSY_SUBREASON and SYNC_CODE one legal value each, and no rule says what another one
does; as R33 and R373 refuse for (a) to (d) only, another value is accepted and every rule runs with it:
DEDUCED, safe, log entry 31. -/
def legalConfig (c : Config) : Bool :=
  decide (c.encMarker ≠ c.stx) && decide (c.crcPoly ≠ 0) &&
    (decide (1 ≤ c.secretBound) && decide (c.secretBound ≤ 2 ^ 64)) &&
    (decide (2 ≤ c.primeBits) && decide (c.primeBits ≤ 64))

/-! ### Refusing -/

/-- The seven reasons in the order of 60_exceptions.md R331. -/
def RefuseReason.all : List RefuseReason :=
  [.badConfig, .downloadActive, .invalidAddress, .keyAbsent, .payloadTooLong, .counterExhausted,
    .resetInExchange]

/-- A set of reasons with one more: in the order of `RefuseReason.all`, no reason twice. -/
def addReason (r : RefuseReason) (rs : List RefuseReason) : List RefuseReason :=
  RefuseReason.all.filter (fun x => x == r || rs.contains x)

/-- `refuse(reason)`: the reason is added to REFUSED and nothing else changes (00_scope.md R17(c),
60_exceptions.md R331). An operation that holds the lock also releases it (`State.release`). -/
def State.refuse (s : State) (r : RefuseReason) : State :=
  { s with refused := addReason r s.refused }

/-! ### The lock -/

/-- `acquire LOCK`, for a step that has found it free (20_memory.md R88). -/
def State.acquire (s : State) : State := { s with lock := .held }

/-- `release LOCK` (20_memory.md R88). -/
def State.release (s : State) : State := { s with lock := .free }

/-! ### The per-address table (10_state.md R44-R46) -/

/-- The table entry of a 7-bit address; entries 128..199 have no address (10_state.md R46). -/
def slot (a : Addr) : Fin nAddr := ⟨a.toNat, by have := a.isLt; simp only [nAddr]; omega⟩

/-- `SEQ[a]` -/
def State.seqAt (s : State) (a : Addr) : Bool := s.seq[slot a]

/-- `CTR[a]` -/
def State.ctrAt (s : State) (a : Addr) : Word32 := s.ctr[slot a]

/-- `SEQ[a] <- v` -/
def State.setSeq (s : State) (a : Addr) (v : Bool) : State :=
  { s with seq := s.seq.set (slot a) v }

/-- `CTR[a] <- v` -/
def State.setCtr (s : State) (a : Addr) (v : Word32) : State :=
  { s with ctr := s.ctr.set (slot a) v }

/-! ### The draw input (00_scope.md R16) -/

/-- `draw x ∈ [0, bound)`: the next value of the draw input, or a free value once none is left. Every
value below the bound is some draw's; nothing else is known of it. DESIGN CHOICE, safe, log
entry 5. -/
def State.draw (s : State) (bound : Nat) : Nat × State :=
  match s.draws with
  | v :: rest => (v % bound, { s with draws := rest })
  | [] => (Config.freeDraw s.drawCount % bound, { s with drawCount := s.drawCount + 1 })

/-- `draw pad ∈ bytes^n` (42_symmetric_codec.md R194). -/
def State.drawBytes : Nat → State → List Byte × State
  | 0, s => ([], s)
  | n + 1, s =>
    let (v, s) := s.draw 256
    let (bs, s) := State.drawBytes n s
    (BitVec.ofNat 8 v :: bs, s)

/-- Draws pairs from the values of the draw input until the two of a pair differ
(41_key_negotiation.md R168); the pair and the values left, or none if they run out first. -/
def drawDistinct (bound : Nat) : List Nat → Option ((Nat × Nat) × List Nat)
  | p :: q :: rest =>
    if p % bound = q % bound then drawDistinct bound rest
    else some ((p % bound, q % bound), rest)
  | _ => none

/-- `draw (P1, P2) with P1 ≠ P2` (41_key_negotiation.md R166, R168), both below `bound`. Once the
draw input runs out, the pair is a free one of distinct values: "A model may draw the pair directly
from the pairs with P1 ≠ P2" (R168). Log entry 20. -/
def State.drawPair (s : State) (bound : Nat) : (Nat × Nat) × State :=
  match drawDistinct bound s.draws with
  | some (pq, rest) => (pq, { s with draws := rest })
  | none =>
    let p := Config.freeDraw s.drawCount % bound
    let q := (p + 1 + Config.freeDraw (s.drawCount + 1) % (bound - 1)) % bound
    ((p, q), { s with draws := [], drawCount := s.drawCount + 2 })

/-! ### Output ports -/

/-- `return v` to the host (00_scope.md R17(a)). -/
def State.emit (s : State) (r : Result) : State := { s with results := s.results ++ [r] }

/-- The bytes handed to the transport's write (00_scope.md R16). -/
def State.tx (s : State) (frame : List Byte) : State := { s with sent := s.sent ++ [frame] }

end Sys2Proof.Machine
end

