-- ==== Sys2Proof/Machine/Cipher.lean ====
section
/-! DEFINITION. The block cipher: AES-128 of FIPS-197 (spec/42_symmetric_codec.md R190) and its operation
AES_BLOCK. PRESUMED, log entry 19: the spec names the cipher and its standard but does not print it;
what is below is FIPS-197's, and the FIPS-197 vector of 95_test_vectors.md V-AES-1 checks it. -/

namespace Sys2Proof.Machine

open Sys2Proof

/-! ### The field GF(2^8) and the S-boxes -/

/-- Multiplication by x modulo x^8 + x^4 + x^3 + x + 1. -/
def xtime (b : Byte) : Byte := if b.msb then (b <<< 1) ^^^ 0x1B else b <<< 1

def mul3 (b : Byte) : Byte := xtime b ^^^ b
def mul9 (b : Byte) : Byte := xtime (xtime (xtime b)) ^^^ b
def mul11 (b : Byte) : Byte := xtime (xtime (xtime b)) ^^^ (xtime b ^^^ b)
def mul13 (b : Byte) : Byte := xtime (xtime (xtime b)) ^^^ (xtime (xtime b) ^^^ b)
def mul14 (b : Byte) : Byte := xtime (xtime (xtime b)) ^^^ (xtime (xtime b) ^^^ xtime b)

/-- A row of 16 table bytes, the first in the highest bits. -/
def tableByte (row : Nat) (column : Nat) : Byte := BitVec.ofNat 8 (row >>> (8 * (15 - column)))

/-- The S-box: row by the high four bits, column by the low four. -/
def sboxRow : Nat → Nat
  | 0x0 => 0x637C777BF26B6FC53001672BFED7AB76
  | 0x1 => 0xCA82C97DFA5947F0ADD4A2AF9CA472C0
  | 0x2 => 0xB7FD9326363FF7CC34A5E5F171D83115
  | 0x3 => 0x04C723C31896059A071280E2EB27B275
  | 0x4 => 0x09832C1A1B6E5AA0523BD6B329E32F84
  | 0x5 => 0x53D100ED20FCB15B6ACBBE394A4C58CF
  | 0x6 => 0xD0EFAAFB434D338545F9027F503C9FA8
  | 0x7 => 0x51A3408F929D38F5BCB6DA2110FFF3D2
  | 0x8 => 0xCD0C13EC5F974417C4A77E3D645D1973
  | 0x9 => 0x60814FDC222A908846EEB814DE5E0BDB
  | 0xA => 0xE0323A0A4906245CC2D3AC629195E479
  | 0xB => 0xE7C8376D8DD54EA96C56F4EA657AAE08
  | 0xC => 0xBA78252E1CA6B4C6E8DD741F4BBD8B8A
  | 0xD => 0x703EB5664803F60E613557B986C11D9E
  | 0xE => 0xE1F8981169D98E949B1E87E9CE5528DF
  | _ => 0x8CA1890DBFE6426841992D0FB054BB16

/-- The inverse S-box, laid out likewise. -/
def invSboxRow : Nat → Nat
  | 0x0 => 0x52096AD53036A538BF40A39E81F3D7FB
  | 0x1 => 0x7CE339829B2FFF87348E4344C4DEE9CB
  | 0x2 => 0x547B9432A6C2233DEE4C950B42FAC34E
  | 0x3 => 0x082EA16628D924B2765BA2496D8BD125
  | 0x4 => 0x72F8F66486689816D4A45CCC5D65B692
  | 0x5 => 0x6C704850FDEDB9DA5E154657A78D9D84
  | 0x6 => 0x90D8AB008CBCD30AF7E45805B8B34506
  | 0x7 => 0xD02C1E8FCA3F0F02C1AFBD0301138A6B
  | 0x8 => 0x3A9111414F67DCEA97F2CFCEF0B4E673
  | 0x9 => 0x96AC7422E7AD3585E2F937E81C75DF6E
  | 0xA => 0x47F11A711D29C5896FB7620EAA18BE1B
  | 0xB => 0xFC563E4BC6D279209ADBC0FE78CD5AF4
  | 0xC => 0x1FDDA8338807C731B11210592780EC5F
  | 0xD => 0x60517FA919B54A0D2DE57A9F93C99CEF
  | 0xE => 0xA0E03B4DAE2AF5B0C8EBBB3C83539961
  | _ => 0x172B047EBA77D626E169146355210C7D

def sbox (b : Byte) : Byte := tableByte (sboxRow (b.toNat / 16)) (b.toNat % 16)
def invSbox (b : Byte) : Byte := tableByte (invSboxRow (b.toNat / 16)) (b.toNat % 16)

/-! ### Columns and blocks -/

def Col.map (f : Byte → Byte) (c : Col) : Col := ⟨f c.b0, f c.b1, f c.b2, f c.b3⟩

def Col.xor (c d : Col) : Col := ⟨c.b0 ^^^ d.b0, c.b1 ^^^ d.b1, c.b2 ^^^ d.b2, c.b3 ^^^ d.b3⟩

def Block.map (f : Byte → Byte) (x : Block) : Block :=
  ⟨Col.map f x.c0, Col.map f x.c1, Col.map f x.c2, Col.map f x.c3⟩

/-- AddRoundKey. -/
def addRoundKey (k x : Block) : Block :=
  ⟨Col.xor k.c0 x.c0, Col.xor k.c1 x.c1, Col.xor k.c2 x.c2, Col.xor k.c3 x.c3⟩

/-- ShiftRows: row r moves r columns to the left. -/
def shiftRows (x : Block) : Block :=
  ⟨⟨x.c0.b0, x.c1.b1, x.c2.b2, x.c3.b3⟩, ⟨x.c1.b0, x.c2.b1, x.c3.b2, x.c0.b3⟩,
    ⟨x.c2.b0, x.c3.b1, x.c0.b2, x.c1.b3⟩, ⟨x.c3.b0, x.c0.b1, x.c1.b2, x.c2.b3⟩⟩

/-- InvShiftRows: row r moves r columns to the right. -/
def invShiftRows (x : Block) : Block :=
  ⟨⟨x.c0.b0, x.c3.b1, x.c2.b2, x.c1.b3⟩, ⟨x.c1.b0, x.c0.b1, x.c3.b2, x.c2.b3⟩,
    ⟨x.c2.b0, x.c1.b1, x.c0.b2, x.c3.b3⟩, ⟨x.c3.b0, x.c2.b1, x.c1.b2, x.c0.b3⟩⟩

/-- MixColumns on one column. -/
def mixCol (c : Col) : Col :=
  ⟨xtime c.b0 ^^^ mul3 c.b1 ^^^ c.b2 ^^^ c.b3, c.b0 ^^^ xtime c.b1 ^^^ mul3 c.b2 ^^^ c.b3,
    c.b0 ^^^ c.b1 ^^^ xtime c.b2 ^^^ mul3 c.b3, mul3 c.b0 ^^^ c.b1 ^^^ c.b2 ^^^ xtime c.b3⟩

/-- InvMixColumns on one column. -/
def invMixCol (c : Col) : Col :=
  ⟨mul14 c.b0 ^^^ mul11 c.b1 ^^^ mul13 c.b2 ^^^ mul9 c.b3,
    mul9 c.b0 ^^^ mul14 c.b1 ^^^ mul11 c.b2 ^^^ mul13 c.b3,
    mul13 c.b0 ^^^ mul9 c.b1 ^^^ mul14 c.b2 ^^^ mul11 c.b3,
    mul11 c.b0 ^^^ mul13 c.b1 ^^^ mul9 c.b2 ^^^ mul14 c.b3⟩

def mixColumns (x : Block) : Block := ⟨mixCol x.c0, mixCol x.c1, mixCol x.c2, mixCol x.c3⟩

def invMixColumns (x : Block) : Block :=
  ⟨invMixCol x.c0, invMixCol x.c1, invMixCol x.c2, invMixCol x.c3⟩

/-! ### Key expansion and the cipher -/

/-- The next round key: RotWord, SubWord and the round constant on the last column. -/
def nextRoundKey (k : Block) (rcon : Byte) : Block :=
  let t : Col := ⟨sbox k.c3.b1 ^^^ rcon, sbox k.c3.b2, sbox k.c3.b3, sbox k.c3.b0⟩
  let c0 := Col.xor k.c0 t
  let c1 := Col.xor k.c1 c0
  let c2 := Col.xor k.c2 c1
  ⟨c0, c1, c2, Col.xor k.c3 c2⟩

def roundConstants : List Byte := [0x01, 0x02, 0x04, 0x08, 0x10, 0x20, 0x40, 0x80, 0x1B, 0x36]

/-- The round keys after the cipher key itself. -/
def roundKeys : Block → List Byte → List Block
  | _, [] => []
  | k, rcon :: rest => nextRoundKey k rcon :: roundKeys (nextRoundKey k rcon) rest

/-- The rounds: all but the last with MixColumns. -/
def encRounds : List Block → Block → Block
  | [], x => x
  | [k], x => addRoundKey k (shiftRows (Block.map sbox x))
  | k :: ks, x => encRounds ks (addRoundKey k (mixColumns (shiftRows (Block.map sbox x))))

/-- The inverse rounds, the last round's key first used. -/
def decRounds : List Block → Block → Block
  | [], y => y
  | [k], y => Block.map invSbox (invShiftRows (addRoundKey k y))
  | k :: ks, y => Block.map invSbox (invShiftRows (invMixColumns (addRoundKey k (decRounds ks y))))

/-- `AES_BLOCK(K, X, enc)` (42_symmetric_codec.md R190). -/
def aesEnc (key x : Block) : Block := encRounds (roundKeys key roundConstants) (addRoundKey key x)

/-- `AES_BLOCK(K, Y, dec)` (42_symmetric_codec.md R190). -/
def aesDec (key y : Block) : Block := addRoundKey key (decRounds (roundKeys key roundConstants) y)

/-- `AES_BLOCK(K, X, dir)` (42_symmetric_codec.md R190). -/
def aesBlock (key x : Block) : Direction → Block
  | .enc => aesEnc key x
  | .dec => aesDec key x

/-- AES_BLOCK (42_symmetric_codec.md R190). -/
def execAesBlock (key x : Block) (dir : Direction) (s : State) : Out :=
  .next (s.emit (.aesBlock (aesBlock key x dir)))

end Sys2Proof.Machine
end

