-- ==== Sys2Proof/Machine/Crc.lean ====
section
/-! DEFINITION. The CRC engine (spec/40_crc.md): CRC16 and CRC_CHECK. -/

namespace Sys2Proof.Machine

open Sys2Proof

/-- One data bit: shift left by one, XOR the polynomial when the register's top bit and the data bit
differ (40_crc.md R140). -/
def crcBit (poly r : Word16) (bit : Bool) : Word16 :=
  if (r.msb ^^ bit) then (r <<< 1) ^^^ poly else r <<< 1

/-- One byte, most significant bit first (40_crc.md R140, 20_memory.md R74). -/
def crcByte (poly r : Word16) (b : Byte) : Word16 :=
  [7, 6, 5, 4, 3, 2, 1, 0].foldl (fun r i => crcBit poly r (b.getLsbD i)) r

/-- `CRC16(xs, seed, poly)` (40_crc.md R140). -/
def crc16 (xs : List Byte) (seed poly : Word16) : Word16 := xs.foldl (crcByte poly) seed

/-- The engine's own CRCs use the configured seed and polynomial (40_crc.md R141). -/
def configCrc (c : Config) (xs : List Byte) : Word16 := crc16 xs c.crcSeed c.crcPoly

/-- `CRC_CHECK(xs, lo, hi, seed, poly)` (40_crc.md R146). -/
def crcCheck (xs : List Byte) (lo hi : Byte) (seed poly : Word16) : Bool :=
  lo == lowByte (crc16 xs seed poly) && hi == highByte (crc16 xs seed poly)

/-- CRC16 (40_crc.md R140). -/
def execCrc16 (xs : List Byte) (seed poly : Word16) (s : State) : Out :=
  .next (s.emit (.crc16 (crc16 xs seed poly)))

/-- CRC_CHECK (40_crc.md R146). -/
def execCrcCheck (xs : List Byte) (lo hi : Byte) (seed poly : Word16) (s : State) : Out :=
  .next (s.emit (.crcCheck (crcCheck xs lo hi seed poly)))

end Sys2Proof.Machine
end

