-- ==== Sys2Proof/Machine/Operands.lean ====
section
/-! DEFINITION. Operand forms: the fields of a received frame (spec/30_encoding.md R115), of a response
payload (R112, R117), of the command payloads the engine builds (45_wire_commands.md R310-R314), and
the cipher key (20_memory.md R75). -/

namespace Sys2Proof.Machine

open Sys2Proof

/-- The address+sequence byte, `(seq << 7) | a` (30_encoding.md R102). -/
def addrSeqByte (seq : Bool) (a : Addr) : Byte :=
  ((if seq then 1 else 0 : Byte) <<< 7) ||| a.setWidth 8

/-- The address of an address+sequence byte, `byte & 0x7F` (30_encoding.md R102; 90_conflicts.md C5). -/
def addrOf (b : Byte) : Addr := (b &&& 0x7F).setWidth 7

/-- The sequence bit of an address+sequence byte, `byte[7]` (30_encoding.md R102). -/
def seqOf (b : Byte) : Bool := b.getLsbD 7

/-- The payload of an accepted frame, `F[3 .. len(F)-3]` (44_link_fsm.md R260, DECODE). -/
def payloadOf (f : List Byte) : List Byte := slice f 3 (f.length - 3)

/-- "framed as encrypted": the payload is not empty and its first byte is ENC_MARKER
(44_link_fsm.md R271). -/
def isEncrypted (c : Config) (payload : List Byte) : Bool := payload.head? == some c.encMarker

/-- The result of a decoded response with status byte `status` (44_link_fsm.md R273, R274). -/
def statusOf (c : Config) (status : Byte) (data : List Byte) : Status :=
  if status = c.notProcessedCode ∧ data.head? = some c.busySubreason then .busy else .resp status

/-- Whether a command is a SYNC: its first byte is SYNC_CODE (44_link_fsm.md R264). -/
def isSync (c : Config) (cmd : List Byte) : Bool := cmd.head? == some c.syncCode

/-- `KEY128(k) = LE_8(FIXED_KEY) ++ LE_8(k)` (20_memory.md R75). -/
def keyBytes (c : Config) (k : Word64) : List Byte :=
  leBytes 8 c.fixedKey.toNat ++ leBytes 8 k.toNat

def keyBlock (c : Config) (k : Word64) : Block := blockOfBytes (keyBytes c k)

/-! ### Command payloads and the Commands that carry them -/

/-- `[SYNC_CODE]` (45_wire_commands.md R310). -/
def syncPayload (c : Config) : List Byte := [c.syncCode]

/-- `[SET_GENERATOR_CODE] ++ LE_8(G)` (45_wire_commands.md R311). -/
def generatorPayload (c : Config) (g : Word64) : List Byte := c.setGeneratorCode :: leBytes 8 g.toNat

/-- `[SET_MODULUS_CODE] ++ LE_8(M)` (45_wire_commands.md R312). -/
def modulusPayload (c : Config) (m : Word64) : List Byte := c.setModulusCode :: leBytes 8 m.toNat

/-- `[KEY_EXCHANGE_CODE] ++ LE_8(A)` (45_wire_commands.md R313). -/
def keyExchangePayload (c : Config) (a : Word64) : List Byte :=
  c.keyExchangeCode :: leBytes 8 a.toNat

/-- An unencrypted Command without a key (30_encoding.md R123, 41_key_negotiation.md R172). -/
def plainCommand (addr : Byte) (retry timeout : Nat) (cmd : List Byte) : Command where
  addr := addr
  enc := false
  key := none
  retry := retry
  timeout := timeout
  cmd := cmd

end Sys2Proof.Machine
end

