-- ==== Sys2Proof/Machine/Codec.lean ====
section
/-! DEFINITION. The symmetric codec (spec/42_symmetric_codec.md): ECB, ENVELOPE, ENCRYPT, DECRYPT. -/

namespace Sys2Proof.Machine

open Sys2Proof

/-- ECB over `n` blocks of a buffer, each independently (42_symmetric_codec.md R192). -/
def ecbBlocks (f : Block → Block) : Nat → List Byte → List Byte
  | 0, _ => []
  | n + 1, buf => blockBytes (f (blockOfBytes (buf.take 16))) ++ ecbBlocks f n (buf.drop 16)

/-- `ECB(K, buf, dir)` for a buffer of whole blocks (42_symmetric_codec.md R192). -/
def ecb (key : Block) (buf : List Byte) (dir : Direction) : List Byte :=
  ecbBlocks (fun x => aesBlock key x dir) (buf.length / 16) buf

/-! ### Encode -/

/-- The pad count `p = (16 - ((7 + N) mod 16)) mod 16` (30_encoding.md R109). -/
def padCount (n : Nat) : Nat := (16 - (7 + n) % 16) % 16

/-- The envelope with its padding given: `[N] ++ LE_4(c) ++ xs ++ pad` and its CRC, low byte first
(42_symmetric_codec.md R193, R195; 30_encoding.md R108). R208's remark that the padding is in the first
block only does not fit these rules for `N ≥ 10`; the padding stands where they put it: DEDUCED, unsafe,
log entry 29. -/
def envelopeWith (c : Config) (xs : List Byte) (ctr : Word32) (pad : List Byte) : List Byte :=
  let env := BitVec.ofNat 8 xs.length :: (leBytes 4 ctr.toNat ++ (xs ++ pad))
  env ++ crcBytes (configCrc c env)

/-- The encrypted payload with its padding given: `[ENC_MARKER] ++ C` (42_symmetric_codec.md R196). -/
def encryptWith (c : Config) (xs : List Byte) (ctr : Word32) (key : Word64) (pad : List Byte) :
    List Byte :=
  c.encMarker :: ecb (keyBlock c key) (envelopeWith c xs ctr pad) .enc

/-- ENCRYPT with its padding drawn (42_symmetric_codec.md R194, R196), for a payload of at most 233
bytes. -/
def State.encryptPayload (s : State) (xs : List Byte) (ctr : Word32) (key : Word64) :
    List Byte × State :=
  let (pad, s') := State.drawBytes (padCount xs.length) s
  (encryptWith s.cfg xs ctr key pad, s')

/-! ### Decode -/

/-- The checks and the opening of a decrypted buffer (42_symmetric_codec.md R200, from the CRC on). -/
def openEnvelope (c : Config) (d : List Byte) (ctr : Word32) : Except PacketReason (List Byte) :=
  if !crcCheck (d.take (d.length - 2)) (byteAt d (d.length - 2)) (byteAt d (d.length - 1))
      c.crcSeed c.crcPoly then .error .crc
  else if fromLE (slice d 1 4) ≠ ctr.toNat then .error .counter
  else if 5 + (byteAt d 0).toNat > d.length - 2 then .error .innerLength
  else .ok (slice d 5 (4 + (byteAt d 0).toNat))

/-- `DECRYPT(P, k, c)` (42_symmetric_codec.md R200). Its operand is a payload whose first byte is the
marker; of another first byte and of an empty payload the rule does not speak. As its pseudocode reads
`P[1 .. len(P)-1]` only, the first byte is not looked at, and an empty payload has no ciphertext: LENGTH.
DEDUCED, unsafe, log entry 28. -/
def decryptPayload (c : Config) (payload : List Byte) (key : Word64) (ctr : Word32) :
    Except PacketReason (List Byte) :=
  let cipher := payload.drop 1
  if cipher.length = 0 ∨ cipher.length % 16 ≠ 0 then .error .length
  else openEnvelope c (ecb (keyBlock c key) cipher .dec) ctr

/-! ### Meanings -/

/-- ENVELOPE (42_symmetric_codec.md R193; the refusal, R198). -/
def execEnvelope (inner : List Byte) (ctr : Word32) (s : State) : Out :=
  if maxInner < inner.length then .next (s.refuse .payloadTooLong)
  else
    let (pad, s') := State.drawBytes (padCount inner.length) s
    .next (s'.emit (.envelope (envelopeWith s.cfg inner ctr pad)))

/-- ENCRYPT (42_symmetric_codec.md R196; the refusal, R198). CTR is not written (R199). -/
def execEncrypt (inner : List Byte) (ctr : Word32) (key : Word64) (s : State) : Out :=
  if maxInner < inner.length then .next (s.refuse .payloadTooLong)
  else
    let (payload, s') := s.encryptPayload inner ctr key
    .next (s'.emit (.encrypt payload))

/-- DECRYPT (42_symmetric_codec.md R200). No state is written (R206). -/
def execDecrypt (payload : List Byte) (key : Word64) (ctr : Word32) (s : State) : Out :=
  .next (s.emit (.decrypt (decryptPayload s.cfg payload key ctr)))

end Sys2Proof.Machine
end

