-- ==== Sys2Proof/Machine/Flags.lean ====
section
/-! DEFINITION. The status bits STUFF, READY, DOWNLOAD_ACTIVE and TRANSPORT_OPEN (spec/10_state.md R59:
"The engine has no condition codes or predicates") and the conditions the link agent waits for
(60_exceptions.md R333-R337). -/

namespace Sys2Proof.Machine

/-- `STUFF <- v` (10_state.md R38). -/
def Deframer.setStuffed (d : Deframer) (v : Bool) : Deframer := { d with stuffed := v }

/-- A frame is accepted: `STUFF <- 0 ; RX_STATE <- WAIT_START ; READY <- 1`, RXBUF kept
(43_frame_codec.md R233). -/
def Deframer.setReady (d : Deframer) : Deframer :=
  { d with stuffed := false, state := .waitStart, ready := true }

/-- `DOWNLOAD_ACTIVE <- v` (10_state.md R41). -/
def State.setDownload (s : State) (v : Bool) : State := { s with downloadActive := v }

/-- `TRANSPORT_OPEN <- 1` (10_state.md R42). -/
def State.openTransport (s : State) : State := { s with transportOpen := true }

/-- A write under way when the transport closes can only fail (44_link_fsm.md R279: "A close during
SENDING makes the pending or next write fail"). -/
def Write.doom : Write → Write
  | .none => .none
  | .pending _ => .pending true

/-- `TRANSPORT_OPEN <- 0` (10_state.md R42). -/
def State.closeTransport (s : State) : State :=
  { s with transportOpen := false, write := s.write.doom }

/-- The spacing timer: `LAST_TX = none or now ≥ LAST_TX + MIN_SPACING_MS` (44_link_fsm.md R267). -/
def State.spacingMet (s : State) : Bool :=
  match s.lastTx with
  | none => true
  | some t => decide (t + s.cfg.minSpacing ≤ s.now)

/-- The deadline event: `now ≥ DEADLINE` (60_exceptions.md R335). -/
def State.deadlinePassed (s : State) : Bool :=
  match s.deadline with
  | none => false
  | some t => decide (t ≤ s.now)

end Sys2Proof.Machine
end

