-- ==== Sys2Proof/Machine/Frame.lean ====
section
/-! DEFINITION. The frame codec and the streaming deframer (spec/43_frame_codec.md): FRAME_ENCODE, STUFF,
RX_BYTE, RX_RESET. -/

namespace Sys2Proof.Machine

open Sys2Proof

/-! ### Encode -/

/-- Every `STX` of a byte list twice (43_frame_codec.md R222, the loop). -/
def doubled (stx : Byte) : List Byte → List Byte
  | [] => []
  | b :: bs => if b = stx then b :: stx :: doubled stx bs else b :: doubled stx bs

/-- `STUFF(body)` for the body `first :: rest` (43_frame_codec.md R222). -/
def stuffBody (stx first : Byte) (rest : List Byte) : List Byte := first :: doubled stx rest

/-- A body after its start marker, for a given address+sequence byte: `[sa, L] ++ xs` and the frame CRC
over them, low byte first (30_encoding.md R101, R104). -/
def bodyTail (c : Config) (sa : Byte) (xs : List Byte) : List Byte :=
  let covered := sa :: BitVec.ofNat 8 xs.length :: xs
  covered ++ crcBytes (configCrc c covered)

/-- The unstuffed frame F-BODY (30_encoding.md R101). -/
def bodyOf (c : Config) (sa : Byte) (xs : List Byte) : List Byte := c.stx :: bodyTail c sa xs

/-- The wire frame F-FRAME of a payload (43_frame_codec.md R220; 30_encoding.md R105). -/
def wireOf (c : Config) (sa : Byte) (xs : List Byte) : List Byte :=
  stuffBody c.stx c.stx (bodyTail c sa xs)

/-- `FRAME_ENCODE(a, s, xs)` for an address and a payload within bounds (43_frame_codec.md R220). -/
def frameEncode (c : Config) (a : Addr) (seq : Bool) (xs : List Byte) : List Byte :=
  wireOf c (addrSeqByte seq a) xs

/-! ### The streaming deframer -/

/-- `DISCARD` (43_frame_codec.md R234). -/
def Deframer.discard (d : Deframer) : Deframer :=
  { d with buf := [], total := none, stuffed := false, state := .waitStart }

/-- `RX_RESET(a)` (43_frame_codec.md R240). -/
def Deframer.rxReset (a : Addr) : Deframer where
  ready := false
  stuffed := false
  buf := []
  total := none
  state := .waitStart
  expected := some a

/-- Whether the frame in the buffer has a good CRC (43_frame_codec.md R233). -/
def frameGood (c : Config) (f : List Byte) : Bool :=
  crcCheck (slice f 1 (f.length - 3)) (byteAt f (f.length - 2)) (byteAt f (f.length - 1))
    c.crcSeed c.crcPoly

/-- `COMPLETE` (43_frame_codec.md R231-R233), with its log note. -/
def Deframer.complete (c : Config) (d : Deframer) : Deframer × List LogEntry :=
  if d.expected ≠ some (addrOf (byteAt d.buf 1)) then (d.discard, [.discardAddress d.buf])
  else if frameGood c d.buf then (d.setReady, [.ready d.buf])
  else (d.discard, [.discardCrc d.buf])

/-- A data byte appended, and the declared total set when the buffer reaches 3 bytes
(43_frame_codec.md R230). -/
def Deframer.append (d : Deframer) (b : Byte) : Deframer :=
  let buf := d.buf ++ [b]
  { d with
    buf := buf
    total := if buf.length = 3 then some ((byteAt buf 2).toNat + 5) else d.total }

/-- `CONSUME(b)` (43_frame_codec.md R230, R231). -/
def Deframer.consume (c : Config) (d : Deframer) (b : Byte) : Deframer × List LogEntry :=
  let d := d.append b
  if d.total = some d.buf.length then d.complete c else (d, [])

/-- The deframer's step on one byte, once it is enabled and READY is clear (43_frame_codec.md R224). -/
def Deframer.step (c : Config) (d : Deframer) (b : Byte) : Deframer × List LogEntry :=
  match d.state with
  | .waitStart =>
    if b = c.stx then
      ({ d with buf := [c.stx], total := none, stuffed := false, state := .inFrame }, [])
    else (d, [.garbage b])
  | .inFrame =>
    if d.stuffed then
      if b = c.stx then (d.setStuffed false).consume c c.stx
      else ({ d with buf := [c.stx, b], total := none, stuffed := false }, [.restart d.buf])
    else if b = c.stx then (d.setStuffed true, [])
    else d.consume c b

/-- Whether a received byte reaches the deframer: an address is expected, the link agent waits for a
response, and no frame is ready (43_frame_codec.md R235, R236). -/
def State.hears (s : State) : Bool :=
  s.rx.expected.isSome && decide (s.linkState = .awaitingResponse) && !s.rx.ready

/-- `RX_BYTE(b)` (43_frame_codec.md R224). -/
def State.receive (s : State) (b : Byte) : State :=
  if s.hears then
    let (d, notes) := s.rx.step s.cfg b
    { s with rx := d, log := s.log ++ notes }
  else s

/-- The receive agent's step: "one byte per step, only while TRANSPORT_OPEN = 1"
(60_exceptions.md R343). DEDUCED, safe, log entry 14: on a closed transport no byte arrives. -/
def State.arrive (s : State) (b : Byte) : State := if s.transportOpen then s.receive b else s

/-- Bytes arrive one after the other. -/
def State.arriveAll (s : State) (bs : List Byte) : State := bs.foldl State.arrive s

/-- `RX_RESET(a)` on the state (43_frame_codec.md R240). -/
def State.rxReset (s : State) (a : Addr) : State := { s with rx := Deframer.rxReset a }

/-! ### Meanings -/

/-- FRAME_ENCODE (43_frame_codec.md R220; the refusals in the order of R220, R221). -/
def execFrameEncode (addr : Byte) (seq : Bool) (payload : List Byte) (s : State) : Out :=
  if wireAddrMax < addr.toNat then .next (s.refuse .invalidAddress)
  else if maxPayload < payload.length then .next (s.refuse .payloadTooLong)
  else .next (s.emit (.frameEncode (frameEncode s.cfg (addr.setWidth 7) seq payload)))

/-- STUFF (43_frame_codec.md R222). Its operand is a body that begins with `STX`; of another first byte
the rule does not speak, and the model runs its pseudocode, which sends byte 0 once whatever it is:
DEDUCED, unsafe, log entry 30. -/
def execStuff (first : Byte) (rest : List Byte) (s : State) : Out :=
  .next (s.emit (.stuff (stuffBody s.cfg.stx first rest)))

/-- RX_BYTE (43_frame_codec.md R224). -/
def execRxByte (b : Byte) (s : State) : Out := .next (s.arrive b)

/-- RX_RESET (43_frame_codec.md R240). -/
def execRxReset (a : Addr) (s : State) : Out := .next (s.rxReset a)

end Sys2Proof.Machine
end

