-- ==== Sys2Proof/Machine/KeyNegotiation.lean ====
section
/-! DEFINITION. Modular exponentiation and the parts of a key negotiation that touch no exchange
(spec/41_key_negotiation.md): MODEXP, the draws of NEGOTIATE, its four Commands. -/

namespace Sys2Proof.Machine

open Sys2Proof

/-! ### MODEXP -/

/-- Square and multiply over `bits` exponent bits, low bit first, every product exact
(41_key_negotiation.md R163, R162). -/
def powLoop (m : Nat) : Nat → Nat → Nat → Nat → Nat
  | 0, acc, _, _ => acc
  | bits + 1, acc, x, k =>
    powLoop m bits (if k % 2 = 1 then acc * x % m else acc) (x * x % m) (k / 2)

/-- `pow(b, e) mod m` for a 64-bit exponent (41_key_negotiation.md R163). -/
def modPow (b e m : Nat) : Nat := powLoop m 64 (1 % m) (b % m) e

/-- `MODEXP(b, e, m)`, `none` being FAIL (41_key_negotiation.md R160, R161). -/
def modexp (b e m : Word64) : Option Word64 :=
  if b = 0 ∨ m = 0 then none else some (BitVec.ofNat 64 (modPow b.toNat e.toNat m.toNat))

/-- MODEXP (41_key_negotiation.md R160). -/
def execModexp (b e m : Word64) (s : State) : Out := .next (s.emit (.modexp (modexp b e m)))

/-! ### The draws and registers of NEGOTIATE -/

/-- The values NEGOTIATE draws: `NEG_G` and `NEG_M`, ordered (41_key_negotiation.md R166-R168), then
`NEG_R` below SECRET_BOUND (R169). -/
structure Drawn where
  g : Word64
  m : Word64
  r : Word64
deriving DecidableEq, Repr

def State.drawNegotiation (s : State) : Drawn × State :=
  let (pq, s') := s.drawPair (2 ^ s.cfg.primeBits)
  let (r, s'') := s'.draw s.cfg.secretBound
  (⟨BitVec.ofNat 64 (min pq.1 pq.2), BitVec.ofNat 64 (max pq.1 pq.2), BitVec.ofNat 64 r⟩, s'')

/-! ### The four commands -/

/-- The payload of one of the four commands (41_key_negotiation.md R172). -/
def negotiationPayload (c : Config) (n : Negotiation) : NegCommand → List Byte
  | .sync => syncPayload c
  | .setGenerator => generatorPayload c n.g
  | .setModulus => modulusPayload c n.m
  | .keyExchange => keyExchangePayload c n.a

/-- The Command of one of the four: unencrypted, without a key, with NEGOTIATE's address, retry level
and timeout (41_key_negotiation.md R172). -/
def negotiationCommand (c : Config) (n : Negotiation) (k : NegCommand) : Command :=
  plainCommand n.addr n.retry n.timeout (negotiationPayload c n k)

/-- Where a NEGOTIATE stands after the OK response to one of its commands, or `none` if the key
exchange's response is too short (41_key_negotiation.md R173, R174). -/
def stageAfter (resp : List Byte) : NegCommand → Option NegStage
  | .sync => some (.command .setGenerator)
  | .setGenerator => some (.command .setModulus)
  | .setModulus => some (.command .keyExchange)
  | .keyExchange =>
    if resp.length < 8 then none else some (.derive (BitVec.ofNat 64 (fromLE (resp.take 8))))

/-- NEGOTIATE ends: FAIL without a key, or the key (41_key_negotiation.md R176, R179). -/
def State.endNegotiation (s : State) (n : Negotiation) (key : Option Word64) : State :=
  s.emit (.negotiate n.addr key)

end Sys2Proof.Machine
end

