-- ==== Sys2Proof/Machine/Link.lean ====
section
/-! DEFINITION. The link state machine (spec/44_link_fsm.md): SEND_COMMAND, the steps of the exchange it
starts, and its result. -/

namespace Sys2Proof.Machine

open Sys2Proof

/-! ### Admission and compiling -/

/-- `ADMIT(C)`: the reason of the first failing check, in the order of 44_link_fsm.md R262. -/
def State.admission (s : State) (c : Command) : Option RefuseReason :=
  if s.downloadActive then some .downloadActive
  else if wireAddrMax < c.addr.toNat then some .invalidAddress
  else if c.enc ∧ c.key = none then some .keyAbsent
  else if maxPayload < c.cmd.length ∨ (c.enc ∧ maxInner < c.cmd.length) then some .payloadTooLong
  else if c.enc ∧ s.ctrAt (c.addr.setWidth 7) = 0xFFFFFFFF then some .counterExhausted
  else none

/-- The exchange registers as the latch leaves them (44_link_fsm.md R264). -/
def latch (cfg : Config) (o : Owner) (c : Command) : Exchange where
  owner := o
  addr := c.addr.setWidth 7
  enc := c.enc
  key := c.key
  cmd := c.cmd
  timeout := c.timeout
  retriesLeft := c.retry
  sync := isSync cfg c.cmd
  rxEnc := none

/-- "If a SYNC command, reset the sequence bit" before compiling (44_link_fsm.md R265). -/
def State.syncReset (s : State) (x : Exchange) : State :=
  if x.sync then s.setSeq x.addr s.cfg.seqInit else s

/-- The frame payload of the exchange: `ENCRYPT(CUR_CMD, CTR[a], CUR_KEY)` or `CUR_CMD`
(44_link_fsm.md R266). An encrypted command without a key is never admitted (R262). -/
def State.compilePayload (s : State) (x : Exchange) : List Byte × State :=
  match x.enc, x.key with
  | true, some k => s.encryptPayload x.cmd (s.ctrAt x.addr) k
  | _, _ => (x.cmd, s)

/-- The admitted command is latched and compiled: `LINK_STATE` is SENDING and `TXBUF` holds the frame
(44_link_fsm.md R264-R266). -/
def State.compile (s : State) (x : Exchange) : State :=
  let (payload, s') := (s.syncReset x).compilePayload x
  { s' with
    linkState := .sending
    cur := some x
    txbuf := frameEncode s'.cfg x.addr (s'.seqAt x.addr) payload }

/-- SEND_COMMAND from `acquire LOCK` to the compiled frame, for a free lock (44_link_fsm.md
R262-R266): a refusal releases the lock again. Between the acquisition and the frame no other agent's
step can be told from one before or after, so this is one step: DEDUCED, safe, log entry 12. -/
def State.beginExchange (s : State) (o : Owner) (c : Command) : State :=
  match s.admission c with
  | some reason => ((s.acquire).refuse reason).release
  | none => (s.acquire).compile (latch s.cfg o c)

/-! ### The result -/

/-- What the caller of the exchange gets: the host its Command's `status` and `resp` (44_link_fsm.md
R277), a NEGOTIATE its next step or its failure (41_key_negotiation.md R173, R174). -/
def State.answer (s : State) (o : Owner) (st : Status) (resp : List Byte) : State :=
  match o with
  | .host c => s.emit (.exchange c st resp)
  | .negotiation n k =>
    if st = .resp s.cfg.okCode then
      match stageAfter resp k with
      | some stage => { s with calls := s.calls ++ [.negotiation n stage] }
      | none => s.endNegotiation n none
    else s.endNegotiation n none

/-- The end state `LINK_STATE` passes through (44_link_fsm.md R261, R277). -/
def endState (st : Status) : LinkState := if st = .timeout then .timedOut else .complete

/-- `LINK_STATE` at its end state, the exchange registers and `DEADLINE` discarded (44_link_fsm.md
R277). -/
def State.conclude (s : State) (st : Status) : State :=
  { s with linkState := endState st, cur := none, deadline := none, write := .none }

/-- `LINK_STATE <- IDLE ; release LOCK` (44_link_fsm.md R278). -/
def State.toIdle (s : State) : State := { s with linkState := .idle, lock := .free }

/-- `FINISH(st, r)`, one step (44_link_fsm.md R277, R278). -/
def State.finish (s : State) (o : Owner) (st : Status) (resp : List Byte) : State :=
  ((s.conclude st).answer o st resp).toIdle

/-! ### The steps of an exchange -/

/-- The write's issue: `LAST_TX`, RX_RESET, `DEADLINE`, and `TXBUF` handed to `tx`, in one step
(44_link_fsm.md R268). -/
def State.issue (s : State) (x : Exchange) : State :=
  let s := { s with lastTx := some s.now, deadline := some (s.now + x.timeout) }
  let s := (s.rxReset x.addr).tx s.txbuf
  { s with write := .pending (!s.transportOpen) }

/-- The timeout path (44_link_fsm.md R270). -/
def State.timeoutPath (s : State) (x : Exchange) : State :=
  if x.retriesLeft ≤ 1 then s.finish x.owner .timeout []
  else { s with linkState := .sending, cur := some { x with retriesLeft := x.retriesLeft - 1 } }

/-- `RX_ENC <- v` (44_link_fsm.md R271). -/
def State.setRxEnc (s : State) (x : Exchange) (v : Bool) : State :=
  { s with cur := some { x with rxEnc := some v } }

/-- A decoded response with status byte `status`: SEQ toggles, CTR counts if both sides were encrypted,
and the exchange finishes (44_link_fsm.md R273-R276). -/
def State.succeed (s : State) (x : Exchange) (rxEnc : Bool) (status : Byte) (data : List Byte) :
    State :=
  let s := s.setSeq x.addr (!s.seqAt x.addr)
  let s := if x.enc && rxEnc then s.setCtr x.addr (s.ctrAt x.addr + 1) else s
  s.finish x.owner (statusOf s.cfg status data) data

/-- A payload in plain text: it needs a status byte (44_link_fsm.md R285), which is extracted (R273). -/
def State.conclusion (s : State) (x : Exchange) (rxEnc : Bool) (d : List Byte) : State :=
  match d with
  | [] => s.finish x.owner (.packetError .empty) []
  | status :: data => s.succeed x rxEnc status data

/-- `DECODE` of a ready frame's payload (44_link_fsm.md R271, R272). -/
def State.decodePayload (s : State) (x : Exchange) (p : List Byte) : State :=
  if isEncrypted s.cfg p then
    let s := s.setRxEnc x true
    match x.key with
    | none => s.finish x.owner (.packetError .noKey) []
    | some k =>
      match decryptPayload s.cfg p k (s.ctrAt x.addr) with
      | .error reason => s.finish x.owner (.packetError reason) []
      | .ok d => s.conclusion x true d
  else (s.setRxEnc x false).conclusion x false p

/-- `DECODE` (44_link_fsm.md R260, R271). -/
def State.decodeFrame (s : State) (x : Exchange) : State := s.decodePayload x (payloadOf s.rx.buf)

/-- The branch of the wait that is taken, or nothing when none is enabled (44_link_fsm.md R260, R269,
R279, R284; 60_exceptions.md R337(a)). Where the frame is ready as the deadline has passed, a draw
chooses: 0 decodes, 1 takes the timeout path. DESIGN CHOICE of which draw is which, safe, log
entry 6. -/
def State.awaitBranch (s : State) (x : Exchange) : State :=
  if s.rx.ready then
    if s.deadlinePassed && s.transportOpen then
      let (d, s') := s.draw 2
      if d = 0 then s'.decodeFrame x else s'.timeoutPath x
    else s.decodeFrame x
  else if !s.transportOpen then s.finish x.owner .portError []
  else if s.deadlinePassed then s.timeoutPath x
  else s

/-- The next step of the link agent whose exchange is in progress, if it is enabled: the write after
the spacing wait (44_link_fsm.md R267, R268), or a branch of the wait for a response (R269). -/
def State.exchangeMove (s : State) : State :=
  match s.cur with
  | none => s
  | some x =>
    match s.linkState with
    | .sending => if s.write = .none ∧ s.spacingMet then s.issue x else s
    | .awaitingResponse => s.awaitBranch x
    | .idle => s
    | .complete => s
    | .timedOut => s

/-- The environment's answer to the pending write: `ok` lets the exchange wait for a response, `fail`
finishes it with PORT_ERROR (44_link_fsm.md R268); a closed transport can only fail
(60_exceptions.md R336). Without a pending write it has no effect (R333). -/
def State.writeAnswered (s : State) (good : Bool) : State :=
  match s.write, s.cur with
  | .pending doomed, some x =>
    if good && !doomed && s.transportOpen then
      { s with write := .none, linkState := .awaitingResponse }
    else s.finish x.owner .portError []
  | _, _ => s

/-! ### SEND_COMMAND -/

/-- A host calls SEND_COMMAND: it takes a free lock at once, and otherwise waits for it
(44_link_fsm.md R263, 20_memory.md R88). -/
def State.callSend (s : State) (c : Command) : State :=
  match s.lock with
  | .free => s.beginExchange (.host c) c
  | .held => { s with calls := s.calls ++ [.send c] }

/-- SEND_COMMAND (44_link_fsm.md R260). -/
def execSendCommand (c : Command) (s : State) : Out := .next (s.callSend c)

end Sys2Proof.Machine
end

