-- ==== Sys2Proof/Machine/Calls.lean ====
section
/-! DEFINITION. Host calls between their steps: NEGOTIATE (spec/41_key_negotiation.md R170) and the calls
that wait for the lock (20_memory.md R88). -/

namespace Sys2Proof.Machine

open Sys2Proof

/-- `acquire LOCK ; CTR[a] <- 0 ; release LOCK` for a free lock (41_key_negotiation.md R171). -/
def State.resetCounter (s : State) (n : Negotiation) : State :=
  ((s.acquire).setCtr (n.addr.setWidth 7) 0).release

/-- A NEGOTIATE with its first registers written joins the calls, its counter reset done at once if the
lock is free (41_key_negotiation.md R170, R171). -/
def State.startNegotiation (s : State) (n : Negotiation) : State :=
  match s.lock with
  | .free =>
    let s := s.resetCounter n
    { s with calls := s.calls ++ [.negotiation n (.command .sync)] }
  | .held => { s with calls := s.calls ++ [.negotiation n .resetCounter] }

/-- NEGOTIATE up to its first command (41_key_negotiation.md R170, R171, R177). While DOWNLOAD_ACTIVE is 1
it is refused (70_reset_and_hazards.md R383; 92_eei_decisions.md D38): when it is called, before any draw
and after the address check, which R170 puts first. DEDUCED for the place of the check, safe, log
entry 32. -/
def execNegotiate (addr : Byte) (retry timeout : Nat) (s : State) : Out :=
  if wireAddrMax < addr.toNat then .next (s.refuse .invalidAddress)
  else if s.downloadActive then .next (s.refuse .downloadActive)
  else
    let (d, s') := s.drawNegotiation
    match modexp d.g d.r d.m with
    | none => .next (s'.emit (.negotiate addr none))
    | some a => .next (s'.startNegotiation ⟨addr, retry, timeout, d.g, d.m, d.r, a⟩)

/-- The `i`-th call replaced by its next position. -/
def State.setCall (s : State) (i : Nat) (c : Call) : State := { s with calls := s.calls.set i c }

/-- The `i`-th call is no longer between steps. -/
def State.dropCall (s : State) (i : Nat) : State := { s with calls := s.calls.eraseIdx i }

/-- The step of a NEGOTIATE that is the `i`-th call (41_key_negotiation.md R170). The steps that need
the lock are enabled while it is free; a refused SEND_COMMAND ends the NEGOTIATE with it (R170,
Exceptions). -/
def State.negotiationMove (s : State) (i : Nat) (n : Negotiation) : NegStage → State
  | .resetCounter =>
    match s.lock with
    | .free => (s.resetCounter n).setCall i (.negotiation n (.command .sync))
    | .held => s
  | .command k =>
    match s.lock with
    | .free => (s.dropCall i).beginExchange (.negotiation n k) (negotiationCommand s.cfg n k)
    | .held => s
  | .derive b =>
    match modexp b n.r n.m with
    | none => (s.dropCall i).endNegotiation n none
    | some k => s.setCall i (.negotiation n (.answer b k))
  | .answer _ k => (s.dropCall i).endNegotiation n (some k)

/-- The next step of the `i`-th waiting call, if it is enabled. Any waiting call may be granted a free
lock (20_memory.md R88): which one is, `i` says. -/
def State.callMove (s : State) (i : Nat) : State :=
  match s.calls[i]? with
  | none => s
  | some (.send c) =>
    match s.lock with
    | .free => (s.dropCall i).beginExchange (.host c) c
    | .held => s
  | some (.negotiation n stage) => s.negotiationMove i n stage

end Sys2Proof.Machine
end

