-- ==== Sys2Proof/Machine/Events.lean ====
section
/-! DEFINITION. The events of the environment and RESET (spec/60_exceptions.md R341-R345,
70_reset_and_hazards.md R370): RESET, TIME, OPEN, CLOSE, DOWNLOAD. -/

namespace Sys2Proof.Machine

open Sys2Proof

/-- Every state element at its reset value (70_reset_and_hazards.md R370). The time input is not the
engine's to write (10_state.md R56), and the ports keep what they carry: DESIGN CHOICE, safe, log
entries 3 and 21. REFUSED becomes empty, as R370 lists it: DEDUCED, log entry 4. A SEND_COMMAND that
waits at `acquire LOCK` is a host's and no element of the engine, and waits on: DEDUCED, unsafe where a
claim rests on it, log entry 27. -/
def State.resetElements (s : State) : State :=
  { State.resetWith s.cfg with
    now := s.now
    calls := s.calls
    events := s.events
    draws := s.draws
    drawCount := s.drawCount
    sent := s.sent
    results := s.results
    log := s.log }

/-- Whether a call is a NEGOTIATE in progress. -/
def Call.isNegotiation : Call → Bool
  | .send _ => false
  | .negotiation _ _ => true

/-- Whether RESET is admitted: "only with the lock free, `LINK_STATE` = IDLE and no NEGOTIATE in
progress" (92_eei_decisions.md D52; 70_reset_and_hazards.md R370). A NEGOTIATE whose exchange is in
progress holds the lock; any other one stands in `calls`. -/
def State.quiet (s : State) : Bool :=
  decide (s.lock = .free) && decide (s.linkState = .idle) && !s.calls.any Call.isNegotiation

/-- RESET: the configuration is checked (70_reset_and_hazards.md R373), and RESET during an operation
is refused (R370). -/
def execReset (s : State) : Out :=
  if !legalConfig s.cfg then .next (s.refuse .badConfig)
  else if !s.quiet then .next (s.refuse .resetInExchange)
  else .next s.resetElements

/-- TIME: `now` becomes `t`, `t ≥ now` (60_exceptions.md R341). A `t` before `now` is no event of this
machine: "It never decreases" (10_state.md R56). Log entry 15. -/
def execTime (t : Nat) (s : State) : Out :=
  if t < s.now then .refused .timeBackwards else .next { s with now := t }

/-- OPEN: "environment draws ok or fail; ok sets TRANSPORT_OPEN" (60_exceptions.md R343), and "a failed
open leaves the transport closed" (92_eei_decisions.md D37), as a CLOSE does to one that was open:
DEDUCED for the write then under way, unsafe where a claim rests on it, log entry 25. The draw 1 is ok,
0 is fail: DESIGN CHOICE, safe, log entry 6. The port name selects nothing in the engine. -/
def execOpenPort (_port : List Byte) (s : State) : Out :=
  let (d, s') := s.draw 2
  if d = 1 then .next (s'.openTransport.emit (.opened true)) else .next (s'.closeTransport.emit (.opened false))

/-- CLOSE (60_exceptions.md R343). It hands nothing back, as 30_encoding.md R121 gives it no result; the
joint row OPEN / CLOSE of 60_exceptions.md R348 gives the host "ok or fail": DEDUCED, unsafe where a claim
rests on it, log entry 34. -/
def execClosePort (s : State) : Out := .next s.closeTransport

/-- DOWNLOAD: `DOWNLOAD_ACTIVE <- v` (60_exceptions.md R345). -/
def execDownload (v : Bool) (s : State) : Out := .next (s.setDownload v)

end Sys2Proof.Machine
end

