-- ==== Sys2Proof/Machine/WireCommands.lean ====
section
/-! DEFINITION. The wire command rows (spec/45_wire_commands.md R310-R314): a host sends that command
payload, as the pseudo-operation SYNC does (30_encoding.md R123). DEDUCED for the rows other than SYNC,
safe, log entry 9. -/

namespace Sys2Proof.Machine

open Sys2Proof

/-- SYNC (45_wire_commands.md R310; 30_encoding.md R123). -/
def execSync (addr : Byte) (retry timeout : Nat) (s : State) : Out :=
  .next (s.callSend (plainCommand addr retry timeout (syncPayload s.cfg)))

/-- SET_GENERATOR (45_wire_commands.md R311). -/
def execSetGenerator (g : Word64) (addr : Byte) (retry timeout : Nat) (s : State) : Out :=
  .next (s.callSend (plainCommand addr retry timeout (generatorPayload s.cfg g)))

/-- SET_MODULUS (45_wire_commands.md R312). -/
def execSetModulus (m : Word64) (addr : Byte) (retry timeout : Nat) (s : State) : Out :=
  .next (s.callSend (plainCommand addr retry timeout (modulusPayload s.cfg m)))

/-- REQUEST_KEY_EXCHANGE (45_wire_commands.md R313). -/
def execRequestKeyExchange (a : Word64) (addr : Byte) (retry timeout : Nat) (s : State) : Out :=
  .next (s.callSend (plainCommand addr retry timeout (keyExchangePayload s.cfg a)))

/-- OTHER_COMMAND: "The engine transmits the payload unchanged" (45_wire_commands.md R314). -/
def execOtherCommand (code : Byte) (params : List Byte) (addr : Byte) (enc : Bool)
    (key : Option Word64) (retry timeout : Nat) (s : State) : Out :=
  .next (s.callSend ⟨addr, enc, key, retry, timeout, code :: params⟩)

end Sys2Proof.Machine
end

