-- ==== Sys2Proof/Machine/WireResponses.lean ====
section
/-! DEFINITION. The wire response rows (spec/45_wire_commands.md R315-R319): the device's frame with that
payload arrives, byte by byte through the deframer, and the link agent decodes it. DESIGN CHOICE, safe,
log entry 10. The frame of OK, DEVICE_BUSY, COMMAND_NOT_PROCESSED and ENCRYPTED_PACKET carries the code
that the configuration holds for the row: DESIGN CHOICE, safe, log entry 33. -/

namespace Sys2Proof.Machine

open Sys2Proof

/-- The wire frame of a response payload arrives in one go (43_frame_codec.md R224, 30_encoding.md
R105), and if that made a frame ready, the link agent takes its DECODE branch (44_link_fsm.md R269,
R271). Where the deframer hears nothing, nothing changes (43_frame_codec.md R235, R236). -/
def State.deviceAnswers (s : State) (sa : Byte) (payload : List Byte) : State :=
  let s' := s.arriveAll (wireOf s.cfg sa payload)
  match s'.cur with
  | some x => if s'.rx.ready && !s.rx.ready then s'.decodeFrame x else s'
  | none => s'

/-- OK (45_wire_commands.md R315), with the configured OK_CODE (log entry 33). -/
def execOk (sa : Byte) (data : List Byte) (s : State) : Out :=
  .next (s.deviceAnswers sa (s.cfg.okCode :: data))

/-- DEVICE_BUSY (45_wire_commands.md R317), with the configured NOT_PROCESSED_CODE and BUSY_SUBREASON (log
entry 33). -/
def execDeviceBusy (sa : Byte) (more : List Byte) (s : State) : Out :=
  .next (s.deviceAnswers sa (s.cfg.notProcessedCode :: s.cfg.busySubreason :: more))

/-- COMMAND_NOT_PROCESSED (45_wire_commands.md R316), with the configured NOT_PROCESSED_CODE (log
entry 33). -/
def execCommandNotProcessed (sa : Byte) (data : List Byte) (s : State) : Out :=
  .next (s.deviceAnswers sa (s.cfg.notProcessedCode :: data))

/-- OTHER_STATUS (45_wire_commands.md R318). -/
def execOtherStatus (status : Byte) (sa : Byte) (data : List Byte) (s : State) : Out :=
  .next (s.deviceAnswers sa (status :: data))

/-- ENCRYPTED_PACKET (45_wire_commands.md R319; 30_encoding.md R107), with the configured ENC_MARKER (log
entry 33). -/
def execEncryptedPacket (sa : Byte) (cipher : List Byte) (s : State) : Out :=
  .next (s.deviceAnswers sa (s.cfg.encMarker :: cipher))

end Sys2Proof.Machine
end

