-- ==== Sys2Proof/Machine/Dispatch.lean ====
section
/-! DEFINITION. One arm for each constructor of Instr, each one direct call of its meaning. -/

namespace Sys2Proof.Machine

open Sys2Proof

def exec (i : Instr) (s : State) : Host.Outcome State Fault Refusal :=
  match i with
  | .crc16 xs seed poly => Sys2Proof.Machine.execCrc16 xs seed poly s
  | .crcCheck xs lo hi seed poly => Sys2Proof.Machine.execCrcCheck xs lo hi seed poly s
  | .modexp b e m => Sys2Proof.Machine.execModexp b e m s
  | .negotiate addr retry timeout => Sys2Proof.Machine.execNegotiate addr retry timeout s
  | .aesBlock key block dir => Sys2Proof.Machine.execAesBlock key block dir s
  | .envelope inner ctr => Sys2Proof.Machine.execEnvelope inner ctr s
  | .encrypt inner ctr key => Sys2Proof.Machine.execEncrypt inner ctr key s
  | .decrypt payload key ctr => Sys2Proof.Machine.execDecrypt payload key ctr s
  | .frameEncode addr seq payload => Sys2Proof.Machine.execFrameEncode addr seq payload s
  | .stuff first rest => Sys2Proof.Machine.execStuff first rest s
  | .rxByte b => Sys2Proof.Machine.execRxByte b s
  | .rxReset addr => Sys2Proof.Machine.execRxReset addr s
  | .sendCommand c => Sys2Proof.Machine.execSendCommand c s
  | .reset => Sys2Proof.Machine.execReset s
  | .time t => Sys2Proof.Machine.execTime t s
  | .openPort port => Sys2Proof.Machine.execOpenPort port s
  | .closePort => Sys2Proof.Machine.execClosePort s
  | .download v => Sys2Proof.Machine.execDownload v s
  | .sync addr retry timeout => Sys2Proof.Machine.execSync addr retry timeout s
  | .setGenerator generator addr retry timeout => Sys2Proof.Machine.execSetGenerator generator addr retry timeout s
  | .setModulus modulus addr retry timeout => Sys2Proof.Machine.execSetModulus modulus addr retry timeout s
  | .requestKeyExchange intermediate addr retry timeout => Sys2Proof.Machine.execRequestKeyExchange intermediate addr retry timeout s
  | .otherCommand code params addr enc key retry timeout => Sys2Proof.Machine.execOtherCommand code params addr enc key retry timeout s
  | .ok sa data => Sys2Proof.Machine.execOk sa data s
  | .deviceBusy sa more => Sys2Proof.Machine.execDeviceBusy sa more s
  | .commandNotProcessed sa data => Sys2Proof.Machine.execCommandNotProcessed sa data s
  | .otherStatus status sa data => Sys2Proof.Machine.execOtherStatus status sa data s
  | .encryptedPacket sa cipher => Sys2Proof.Machine.execEncryptedPacket sa cipher s

end Sys2Proof.Machine
end

