-- ==== Sys2Proof/Machine/Moves.lean ====
section
/-! DEFINITION. One move of one agent (spec/00_scope.md R7): what `step` calls, and how a message is
laid on the port. -/

namespace Sys2Proof.Machine

open Sys2Proof

/-- A message of the port is decoded and its instruction executed. -/
def State.perform (s : State) (fmt : Format) (bytes : List Byte) : Out :=
  match decode fmt bytes with
  | .ok i => exec i s
  | .error why => .refused (.undecodable why)

/-- The move an event stands for (00_scope.md R7). -/
def State.move (s : State) : Event → Out
  | .operation fmt bytes => s.perform fmt bytes
  | .written good => .next (s.writeAnswered good)
  | .exchange => .next s.exchangeMove
  | .call i => .next (s.callMove i)

/-- The move when no event is pending: the link agents go on, the one that holds the lock first, else
the first waiting call. With no call in progress "the engine does nothing until a host operation or an
event arrives" (70_reset_and_hazards.md R372). DESIGN CHOICE, safe, log entry 1. -/
def State.idleMove (s : State) : State :=
  match s.lock with
  | .held => s.exchangeMove
  | .free => s.callMove 0

/-- The message of a word of spec/opcode_table.json with zero operands. -/
def tableMessage (nbits w : Nat) : Event :=
  let bs := tableBytes (nbits / 8) w
  .operation (formatOfTableWord bs) (bs ++ zeroOperands)

end Sys2Proof.Machine
end

