-- ==== Sys2Proof/Machine/Step.lean ====
section
/-! DEFINITION. One step of the machine: the next pending move of an agent. -/

namespace Sys2Proof.Machine

open Sys2Proof

/-- One step: the next event of the list, or the link agents' own move when there is none. A
configuration that breaks 10_state.md R33 refuses before anything else: "refuse(BAD_CONFIG) before any
operation". -/
def step (s : State) : Host.Outcome State Fault Refusal :=
  match s.events with
  | [] => if legalConfig s.cfg then .next s.idleMove else .next (s.refuse .badConfig)
  | e :: rest =>
    if legalConfig s.cfg then { s with events := rest }.move e
    else .next ({ s with events := rest }.refuse .badConfig)

/-- The state with an instruction of spec/opcode_table.json, its operands zero, as the next message on
the port, so that the next step runs it. It stands for the host handing the operation over: a program
is handed to the engine from outside (log entry 1). -/
def State.withFetchWord (s : State) (nbits w : Nat) : State :=
  { s with events := tableMessage nbits w :: s.events }

end Sys2Proof.Machine
end

