-- ==== Sys2Proof/Safety.lean ====
section
/-! DEFINITION. What counts as a safe run, in the terms claims use: REFUSED (spec/10_state.md R43), the end
of a run (60_exceptions.md R350), the invariants the rules state of the engine's control state, and (in
`Sys2Proof.Spec`) forms of the rules written apart from the machine, which claims compare it with. -/

namespace Sys2Proof

open Sys2Proof.Machine

/-- "a run with REFUSED non-empty satisfies no claim" (10_state.md R43). -/
def Unrefused (s : State) : Prop := s.refused = []

/-- A run has ended: every host operation has returned, the lock is free, `LINK_STATE` is IDLE and
every write is answered (60_exceptions.md R350). -/
def Ended (s : State) : Prop :=
  s.calls = [] ∧ s.lock = .free ∧ s.linkState = .idle ∧ s.write = .none

/-- The control state of the link agent is coherent: the lock is held exactly while an exchange is in
progress (44_link_fsm.md R263, R278), `LINK_STATE` is IDLE exactly outside one (R287), COMPLETE and
TIMED_OUT are only passed through (R277), a write is under way only in SENDING (R268), and `DEADLINE`
holds a value while a write or a wait needs it and none outside an exchange (10_state.md R51). -/
structure LinkInv (s : State) : Prop where
  held_iff : s.lock = .held ↔ s.cur.isSome = true
  idle_iff : s.linkState = .idle ↔ s.cur = none
  passing : s.linkState ≠ .complete ∧ s.linkState ≠ .timedOut
  writing : s.write ≠ .none → s.linkState = .sending ∧ s.deadline.isSome = true
  awaiting : s.linkState = .awaitingResponse → s.deadline.isSome = true
  absent : s.cur = none → s.deadline = none

/-- The deframer is coherent: what its buffer holds in each control state (43_frame_codec.md R225-R237,
10_state.md R38, R39, R52). -/
structure DeframerInv (c : Config) (d : Deframer) : Prop where
  /-- STUFF is set only inside a frame (10_state.md R38) -/
  stuffed : d.state = .waitStart → d.stuffed = false
  /-- outside a frame the buffer is empty unless it holds the ready frame (43_frame_codec.md R233,
  R234) -/
  waiting : d.state = .waitStart → d.ready = false → d.buf = [] ∧ d.total = none
  /-- "While READY = 1 the frame it announces is RXBUF and RX_TOTAL = len(RXBUF)" (10_state.md R39):
  it is for the expected address and its CRC is good (43_frame_codec.md R232, R233) -/
  ready : d.ready = true → d.state = .waitStart ∧ d.total = some d.buf.length ∧
    5 ≤ d.buf.length ∧ d.expected = some (addrOf (byteAt d.buf 1)) ∧ frameGood c d.buf = true
  /-- inside a frame the declared total is known from the third byte on and not yet reached
  (43_frame_codec.md R230, R231) -/
  inFrame : d.state = .inFrame → d.ready = false ∧ 1 ≤ d.buf.length ∧
    (d.buf.length < 3 → d.total = none) ∧
    (3 ≤ d.buf.length → d.total = some ((byteAt d.buf 2).toNat + 5) ∧
      d.buf.length < (byteAt d.buf 2).toNat + 5)
  /-- "starting with STX at index 0" (10_state.md R52) -/
  start : d.buf ≠ [] → d.buf.head? = some c.stx
  /-- "RXBUF never holds more than 260 bytes" (43_frame_codec.md R237) -/
  capacity : d.buf.length ≤ 260
  /-- "While EXPECTED_ADDR is absent the deframer is disabled" (10_state.md R52) -/
  disabled : d.expected = none → d = Deframer.reset

/-- "Entries 128..199 keep their reset values for the whole run" (10_state.md R46). -/
def TableInv (s : State) : Prop :=
  ∀ i : Fin nAddr, 128 ≤ i.val → s.seq[i] = s.cfg.seqInit ∧ s.ctr[i] = 0

/-- `LAST_TX` is a time that has been (10_state.md R50, R56). -/
def TimeInv (s : State) : Prop := ∀ t, s.lastTx = some t → t ≤ s.now

/-- What admission leaves true of the exchange in progress (44_link_fsm.md R262): the payload bounds, a
key for an encrypted command, a counter that can still count (R276: "The sum never wraps"); and `TXBUF`
"is at most 2·(250+4)+1 = 509 bytes" (10_state.md R49). -/
structure ExchangeInv (s : State) : Prop where
  payload : ∀ x, s.cur = some x → x.cmd.length ≤ maxPayload
  encrypted : ∀ x, s.cur = some x → x.enc = true →
    x.key.isSome = true ∧ x.cmd.length ≤ maxInner ∧ s.ctrAt x.addr ≠ 0xFFFFFFFF
  sync : ∀ x, s.cur = some x → x.sync = isSync s.cfg x.cmd
  txbuf : s.txbuf.length ≤ 509

/-- A byte-wise run of the receive agent: RX_BYTE for each byte in turn (43_frame_codec.md R224), stopping
at the first fault or refusal. -/
def feed : List Byte → State → Out
  | [], s => .next s
  | b :: bs, s =>
    match exec (.rxByte b) s with
    | .next t => feed bs t
    | .fault f => .fault f
    | .refused r => .refused r

namespace Spec

/-! ### Forms of the rules that the machine's own definitions do not use -/

/-- One shift of the register in the form of 40_crc.md R142. -/
def crcShift (poly r : Word16) : Word16 := if r.getLsbD 15 then (r <<< 1) ^^^ poly else r <<< 1

/-- One byte in the form of R142: the byte is folded into the register's high byte, then eight shifts. -/
def crcFoldByte (poly r : Word16) (b : Byte) : Word16 :=
  Nat.repeat (crcShift poly) 8 (r ^^^ (b.setWidth 16 <<< 8))

/-- The CRC in the form of 40_crc.md R142. -/
def crcFold (xs : List Byte) (seed poly : Word16) : Word16 := xs.foldl (crcFoldByte poly) seed

/-- A CRC's two bytes on the wire: low byte first (20_memory.md R71, R77). -/
def crcTail (c : Config) (xs : List Byte) : List Byte :=
  [(crcFold xs c.crcSeed c.crcPoly).extractLsb' 0 8, (crcFold xs c.crcSeed c.crcPoly).extractLsb' 8 8]

/-- A byte list with bit `i % 8` of byte `i / 8` flipped. -/
def flipBit (xs : List Byte) (i : Nat) : List Byte :=
  xs.modify (i / 8) (fun b => b ^^^ ((1 : Byte) <<< (i % 8)))

/-- `buf'` is `buf` with `f` applied to each of its 16-byte blocks (42_symmetric_codec.md R192). -/
def Blockwise (f : Block → Block) (buf buf' : List Byte) : Prop :=
  buf'.length = buf.length ∧
    ∀ j, 16 * j < buf.length →
      (buf'.drop (16 * j)).take 16 = blockBytes (f (blockOfBytes ((buf.drop (16 * j)).take 16)))

/-- The cipher key `LE_8(FIXED_KEY) ++ LE_8(k)` (20_memory.md R75). -/
def cipherKey (c : Config) (k : Word64) : Block :=
  blockOfBytes (leBytes 8 c.fixedKey.toNat ++ leBytes 8 k.toNat)

/-- The pad count of 30_encoding.md R109. -/
def padLength (n : Nat) : Nat := (16 - ((7 + n) % 16)) % 16

/-- The envelope of 30_encoding.md R108 for a given padding. -/
def envelope (c : Config) (inner : List Byte) (ctr : Word32) (pad : List Byte) : List Byte :=
  let env := [BitVec.ofNat 8 inner.length] ++ leBytes 4 ctr.toNat ++ inner ++ pad
  env ++ crcTail c env

/-- The address+sequence byte as a number: the bit above the address (30_encoding.md R102). -/
def addrByte (seq : Bool) (a : Addr) : Byte := BitVec.ofNat 8 ((if seq then 128 else 0) + a.toNat)

/-- The unstuffed frame of 30_encoding.md R101, for its address+sequence byte. -/
def body (c : Config) (sa : Byte) (xs : List Byte) : List Byte :=
  let covered := [sa, BitVec.ofNat 8 xs.length] ++ xs
  [c.stx] ++ covered ++ crcTail c covered

/-- Byte stuffing: the first byte once, every later start marker twice (30_encoding.md R105). -/
def stuffed (c : Config) (bs : List Byte) : List Byte :=
  bs.take 1 ++ (bs.drop 1).flatMap (fun b => if b = c.stx then [b, b] else [b])

/-! ### What the link agent leaves -/

/-- The sequence bits as the frame of a command is compiled: a SYNC resets its address's
(44_link_fsm.md R265). -/
def seqForCommand (s : State) (c : Command) : Vector Bool nAddr :=
  if c.cmd.head? = some s.cfg.syncCode then s.seq.set (slot (c.addr.setWidth 7)) s.cfg.seqInit
  else s.seq

/-- The state after the lock is taken, the Command latched and its frame compiled (44_link_fsm.md
R263-R266), given the frame's payload. -/
def compiled (s : State) (o : Owner) (c : Command) (payload : List Byte) : State :=
  { s with
    lock := .held
    linkState := .sending
    seq := seqForCommand s c
    cur := some
      { owner := o
        addr := c.addr.setWidth 7
        enc := c.enc
        key := c.key
        cmd := c.cmd
        timeout := c.timeout
        retriesLeft := c.retry
        sync := decide (c.cmd.head? = some s.cfg.syncCode)
        rxEnc := none }
    txbuf := stuffed s.cfg
      (body s.cfg (addrByte (seqForCommand s c)[slot (c.addr.setWidth 7)] (c.addr.setWidth 7)) payload) }

/-- The state after FINISH (44_link_fsm.md R277, R278) but for what is handed back. -/
def closed (s : State) : State :=
  { s with linkState := .idle, lock := .free, cur := none, deadline := none, write := .none }

/-- A host's exchange ends and hands its result back (44_link_fsm.md R277, R278). -/
def returned (s : State) (c : Command) (st : Status) (resp : List Byte) : State :=
  { closed s with results := s.results ++ [.exchange c st resp] }

/-- A NEGOTIATE's exchange ends and the NEGOTIATE fails with it (41_key_negotiation.md R173, R176). -/
def abandoned (s : State) (n : Negotiation) : State :=
  { closed s with results := s.results ++ [.negotiate n.addr none] }

/-- An exchange ends without a decoded response: its host gets the status and an empty `resp`, its
NEGOTIATE fails. -/
def failed (s : State) (o : Owner) (st : Status) : State :=
  match o with
  | .host c => returned s c st []
  | .negotiation n _ => abandoned s n

/-- A NEGOTIATE's exchange ends and the NEGOTIATE goes on (41_key_negotiation.md R170). -/
def continued (s : State) (n : Negotiation) (stage : NegStage) : State :=
  { closed s with calls := s.calls ++ [.negotiation n stage] }

/-- An exchange ends with a decoded response: a NEGOTIATE goes on exactly after `RESP(OK_CODE)`, and
after its fourth command exactly if there are eight data bytes (41_key_negotiation.md R173, R174). -/
def answered (s : State) (o : Owner) (st : Status) (data : List Byte) : State :=
  match o with
  | .host c => returned s c st data
  | .negotiation n k =>
    if st = .resp s.cfg.okCode then
      match k with
      | .sync => continued s n (.command .setGenerator)
      | .setGenerator => continued s n (.command .setModulus)
      | .setModulus => continued s n (.command .keyExchange)
      | .keyExchange =>
        if 8 ≤ data.length then continued s n (.derive (BitVec.ofNat 64 (fromLE (data.take 8))))
        else abandoned s n
    else abandoned s n

/-- The sequence bits after a decoded response from an address (44_link_fsm.md R275). -/
def toggled (s : State) (a : Addr) : Vector Bool nAddr := s.seq.set (slot a) (!s.seq[slot a])

/-- An operation is refused: a next state in which REFUSED has the reason besides those it had and
nothing else is changed (60_exceptions.md R331). -/
def Refused (o : Out) (s : State) (r : RefuseReason) : Prop :=
  ∃ rs, o = .next { s with refused := rs } ∧ ∀ x, x ∈ rs ↔ x = r ∨ x ∈ s.refused

/-- An encrypted Command is compiled: the frame's payload is the marker and the cipher text, block by
block, of an envelope with some padding of the right length (44_link_fsm.md R266). -/
def CompilesEncrypted (o : Out) (s : State) (c : Command) (k : Word64) : Prop :=
  ∃ pad cipher draws drawCount,
    pad.length = padLength c.cmd.length ∧
    Blockwise (fun x => aesBlock (cipherKey s.cfg k) x .enc)
      (envelope s.cfg c.cmd s.ctr[slot (c.addr.setWidth 7)] pad) cipher ∧
    o = .next { compiled s (.host c) c (s.cfg.encMarker :: cipher) with
      draws := draws, drawCount := drawCount }

/-- The operation is encoded by its selector (30_encoding.md R121). -/
def Selected (i : Instr) (sel : Byte) : Prop := i.format = .operation ∧ (encode i).head? = some sel

/-- The payload of a received frame, `F[3 .. T-3]` (30_encoding.md R115). -/
def payload (f : List Byte) : List Byte := (f.drop 3).take (f.length - 5)

/-- What a state may be opened with: `DECRYPT(P, k, c)` answers `r` (42_symmetric_codec.md R200). -/
def Opens (s : State) (p : List Byte) (k : Word64) (ctr : Word32)
    (r : Except PacketReason (List Byte)) : Prop :=
  exec (.decrypt p k ctr) s = .next { s with results := s.results ++ [.decrypt r] }

/-- The deframer right after RX_RESET (43_frame_codec.md R240). -/
def fresh (a : Addr) : Deframer where
  state := .waitStart
  stuffed := false
  ready := false
  buf := []
  total := none
  expected := some a

/-- The payload a response row's frame carries (45_wire_commands.md R315-R319), for its address+sequence
byte. -/
inductive RowOf (c : Config) (sa : Byte) : Instr → List Byte → Prop
  | ok (data : List Byte) : RowOf c sa (.ok sa data) (c.okCode :: data)
  | deviceBusy (more : List Byte) :
    RowOf c sa (.deviceBusy sa more) (c.notProcessedCode :: c.busySubreason :: more)
  | commandNotProcessed (data : List Byte) :
    RowOf c sa (.commandNotProcessed sa data) (c.notProcessedCode :: data)
  | otherStatus (status : Byte) (data : List Byte) :
    RowOf c sa (.otherStatus status sa data) (status :: data)
  | encryptedPacket (cipher : List Byte) :
    RowOf c sa (.encryptedPacket sa cipher) (c.encMarker :: cipher)

/-- The result of a decoded response (44_link_fsm.md R273, R274). -/
def resultOf (c : Config) (status : Byte) (data : List Byte) : Status :=
  if status = c.notProcessedCode ∧ data[0]? = some c.busySubreason then .busy else .resp status

/-- What the exchange `x` decodes from a frame's payload: the status byte and the data behind it, in plain
text, or out of an encrypted packet under the exchange's key and the counter of its address
(44_link_fsm.md R271-R273, R285). -/
def Decoded (s : State) (x : Exchange) (p : List Byte) (rxEnc : Bool) (status : Byte)
    (data : List Byte) : Prop :=
  match rxEnc with
  | true => ∃ cipher k, p = s.cfg.encMarker :: cipher ∧ x.key = some k ∧
      Opens s p k s.ctr[slot x.addr] (.ok (status :: data))
  | false => p = status :: data ∧ status ≠ s.cfg.encMarker

/-- The counters after a decoded response to the exchange `x` (44_link_fsm.md R276). -/
def counted (s : State) (x : Exchange) (rxEnc : Bool) : Vector Word32 nAddr :=
  if x.enc = true ∧ rxEnc = true then s.ctr.set (slot x.addr) (s.ctr[slot x.addr] + 1) else s.ctr

/-- The next step is the link agent's own: its move is the next event, or no event is pending. -/
def AgentMoves (s : State) : Prop :=
  (∃ rest, s.events = .exchange :: rest) ∨ (s.events = [] ∧ s.lock = .held)

/-- The link agent's next move takes the timeout path (44_link_fsm.md R270, R284): the deadline has passed
on an open transport, and no frame is ready, or the draw of the tie takes that path (log entry 6). -/
def TimesOut (s : State) : Prop :=
  s.linkState = .awaitingResponse ∧ s.transportOpen = true ∧
    (∃ d, s.deadline = some d ∧ d ≤ s.now) ∧ (s.rx.ready = false ∨ (s.draw 2).1 = 1)

/-- The next message is a RESET. -/
def ResetNext (s : State) : Prop :=
  ∃ fmt bytes rest, s.events = .operation fmt bytes :: rest ∧ decode fmt bytes = .ok .reset

/-- The deframer with a frame accepted (43_frame_codec.md R233). -/
def accepted (bs : List Byte) (a : Addr) : Deframer where
  state := .waitStart
  stuffed := false
  ready := true
  buf := bs
  total := some bs.length
  expected := some a

/-- How many more writes an exchange may issue (44_link_fsm.md R270, R280): the attempts left, less the
one under way. -/
def writesLeft (s : State) (x : Exchange) : Nat :=
  max x.retriesLeft 1 - (if s.linkState = .awaitingResponse ∨ s.write ≠ .none then 1 else 0)

/-- The engine after a frame of a fresh deframer was accepted: the deframer holds it, and it is logged
(43_frame_codec.md R233). -/
def heard (s : State) (sa : Byte) (p : List Byte) : State :=
  { s with
    rx := accepted (body s.cfg sa p) (sa.setWidth 7)
    log := s.log ++ [.ready (body s.cfg sa p)] }

/-- An agent's move as the next event. -/
def moved (e : Event) (s : State) : State := { s with events := e :: s.events }

/-- One attempt that no response comes to: the spacing passes by `t`, the write is issued and answered,
and the deadline passes by `u`. -/
def silentAttempt (t u : Nat) : List Event :=
  [.operation .operation (encode (.time t)), .exchange, .written true,
    .operation .operation (encode (.time u)), .exchange]

/-- The attempts of an exchange that no response comes to, at the given times. -/
def silence : List (Nat × Nat) → List Event
  | [] => []
  | (t, u) :: rest => silentAttempt t u ++ silence rest

/-- The times of attempts respect the rules: each write waits out the spacing since the last, each
timeout is `timeout` after its write, and time does not run back (44_link_fsm.md R267, R268). -/
def Paced (spacing timeout : Nat) : Option Nat → Nat → List (Nat × Nat) → Prop
  | _, _, [] => True
  | last, now, (t, u) :: rest =>
    now ≤ t ∧ (∀ l, last = some l → l + spacing ≤ t) ∧ t + timeout ≤ u ∧
      Paced spacing timeout (some t) u rest

end Spec

end Sys2Proof
end

