-- ==== Sys2Proof/Certificates/Slice0/Obligations.lean ====
section
/-! DEFINITION. The statements about the model, each with the rule of spec/ it formalises. The forms they
compare the machine with are those of `Sys2Proof.Spec` (Sys2Proof/Safety.lean), written apart from it.
An equation `exec i s = .next t` gives the whole next state, so it is also the statement's frame: what
`t` does not name is as in `s`. -/

open Sys2Proof Sys2Proof.Machine

/-! ### CRC -/

/-- 40_crc.md R142: CRC16 completes in every state with the value of the high-byte-fold form. -/
def Obligations.Crc16IsHighByteFold : Prop :=
  ∀ (xs : List Byte) (seed poly : Word16) (s : State),
    exec (.crc16 xs seed poly) s =
      .next { s with results := s.results ++ [.crc16 (Spec.crcFold xs seed poly)] }

/-- 40_crc.md R148: the CRC of a concatenation is the CRC of its second part from the CRC of its
first. -/
def Obligations.Crc16Streams : Prop :=
  ∀ (xs ys : List Byte) (seed poly : Word16) (s : State),
    ∃ c, exec (.crc16 xs seed poly) s = .next { s with results := s.results ++ [.crc16 c] } ∧
      exec (.crc16 (xs ++ ys) seed poly) s = exec (.crc16 ys c poly) s

/-- 40_crc.md, the single-bit property: for a polynomial that is not zero, one flipped bit changes the
CRC, and CRC_CHECK against the old CRC rejects the list. -/
def Obligations.SingleBitErrorsDetected : Prop :=
  ∀ (xs : List Byte) (i : Nat) (seed poly : Word16) (s : State),
    poly ≠ 0 → i < 8 * xs.length →
    ∃ c d, c ≠ d ∧
      exec (.crc16 xs seed poly) s = .next { s with results := s.results ++ [.crc16 c] } ∧
      exec (.crc16 (Spec.flipBit xs i) seed poly) s =
        .next { s with results := s.results ++ [.crc16 d] } ∧
      exec (.crcCheck (Spec.flipBit xs i) (c.extractLsb' 0 8) (c.extractLsb' 8 8) seed poly) s =
        .next { s with results := s.results ++ [.crcCheck false] }

/-- 40_crc.md R146: CRC_CHECK completes in every state and accepts exactly the CRC's own two bytes. -/
def Obligations.CrcCheckRecomputes : Prop :=
  ∀ (xs : List Byte) (lo hi : Byte) (seed poly : Word16) (s : State),
    Spec.Selected (.crcCheck xs lo hi seed poly) 0x02 ∧
    exec (.crcCheck xs lo hi seed poly) s =
      .next { s with
        results := s.results ++ [.crcCheck (decide ((hi ++ lo : Word16) = Spec.crcFold xs seed poly))] }

/-! ### Modular exponentiation and the cipher -/

/-- 41_key_negotiation.md R160, R162: MODEXP completes in every state, with
FAIL for a zero base or modulus and the exact power otherwise. -/
def Obligations.ModexpExact : Prop :=
  ∀ (b e m : Word64) (s : State),
    Spec.Selected (.modexp b e m) 0x03 ∧
    exec (.modexp b e m) s =
      .next { s with
        results := s.results ++ [.modexp
          (if b = 0 ∨ m = 0 then none
           else some (BitVec.ofNat 64 (b.toNat ^ e.toNat % m.toNat)))] }

/-- 42_symmetric_codec.md section 1: AES_BLOCK completes in every state in both directions, and each
direction undoes the other. -/
def Obligations.AesBlockInverts : Prop :=
  ∀ (k x : Block) (s t : State) (dir : Direction),
    ∃ y, exec (.aesBlock k x dir) s = .next { s with results := s.results ++ [.aesBlock y] } ∧
      exec (.aesBlock k y (match dir with | .enc => .dec | .dec => .enc)) t =
        .next { t with results := t.results ++ [.aesBlock x] }

/-! ### The symmetric codec -/

/-- 42_symmetric_codec.md R193: ENVELOPE refuses more than 233 bytes; otherwise it completes with the
envelope for some padding of the right length, a whole number of blocks, and any padding that the draw
input delivers is the one used. Where the padding stands is log entry 29. -/
def Obligations.EnvelopeBuilt : Prop :=
  ∀ (inner : List Byte) (ctr : Word32) (s : State),
    (233 < inner.length → Spec.Refused (exec (.envelope inner ctr) s) s .payloadTooLong) ∧
    (inner.length ≤ 233 →
      (∃ pad draws drawCount,
        pad.length = Spec.padLength inner.length ∧
        (Spec.envelope s.cfg inner ctr pad).length % 16 = 0 ∧
        exec (.envelope inner ctr) s =
          .next { s with
            draws := draws
            drawCount := drawCount
            results := s.results ++ [.envelope (Spec.envelope s.cfg inner ctr pad)] }) ∧
      ∀ (pad : List Byte) (rest : List Nat), pad.length = Spec.padLength inner.length →
        exec (.envelope inner ctr) { s with draws := pad.map BitVec.toNat ++ rest } =
          .next { s with
            draws := rest
            results := s.results ++ [.envelope (Spec.envelope s.cfg inner ctr pad)] })

/-- 42_symmetric_codec.md R196: ENCRYPT refuses more than 233 bytes; otherwise it completes with the
marker and the envelope's blocks enciphered one by one, for some padding of the right length, and any
padding that the draw input delivers is the one used. CTR is not written. Where the padding stands is log
entry 29. -/
def Obligations.EncryptBuilt : Prop :=
  ∀ (inner : List Byte) (ctr : Word32) (key : Word64) (s : State),
    (233 < inner.length → Spec.Refused (exec (.encrypt inner ctr key) s) s .payloadTooLong) ∧
    (inner.length ≤ 233 →
      (∃ pad cipher draws drawCount,
        pad.length = Spec.padLength inner.length ∧
        Spec.Blockwise (fun x => aesBlock (Spec.cipherKey s.cfg key) x .enc)
          (Spec.envelope s.cfg inner ctr pad) cipher ∧
        exec (.encrypt inner ctr key) s =
          .next { s with
            draws := draws
            drawCount := drawCount
            results := s.results ++ [.encrypt (s.cfg.encMarker :: cipher)] }) ∧
      ∀ (pad : List Byte) (rest : List Nat), pad.length = Spec.padLength inner.length →
        ∃ cipher,
          Spec.Blockwise (fun x => aesBlock (Spec.cipherKey s.cfg key) x .enc)
            (Spec.envelope s.cfg inner ctr pad) cipher ∧
          exec (.encrypt inner ctr key) { s with draws := pad.map BitVec.toNat ++ rest } =
            .next { s with
              draws := rest
              results := s.results ++ [.encrypt (s.cfg.encMarker :: cipher)] })

/-- 42_symmetric_codec.md R200, section 3: DECRYPT completes in every state; its checks are made in the
order LENGTH, CRC, COUNTER, INNER_LENGTH, and a packet that passes them opens to its inner payload. That
this holds of the empty payload and whatever the first byte is rests on log entry 28. -/
def Obligations.DecryptChecksInOrder : Prop :=
  ∀ (p : List Byte) (key : Word64) (ctr : Word32) (s : State),
    Spec.Selected (.decrypt p key ctr) 0x08 ∧
    ((p.drop 1).length = 0 ∨ (p.drop 1).length % 16 ≠ 0 →
      Spec.Opens s p key ctr (.error .length)) ∧
    ((p.drop 1).length ≠ 0 → (p.drop 1).length % 16 = 0 →
      ∃ d, Spec.Blockwise (fun x => aesBlock (Spec.cipherKey s.cfg key) x .dec) (p.drop 1) d ∧
        (d.drop (d.length - 2) ≠ Spec.crcTail s.cfg (d.take (d.length - 2)) →
          Spec.Opens s p key ctr (.error .crc)) ∧
        (d.drop (d.length - 2) = Spec.crcTail s.cfg (d.take (d.length - 2)) →
          (fromLE ((d.drop 1).take 4) ≠ ctr.toNat → Spec.Opens s p key ctr (.error .counter)) ∧
          (fromLE ((d.drop 1).take 4) = ctr.toNat →
            ∀ n, d[0]? = some n →
              (d.length - 2 < 5 + n.toNat → Spec.Opens s p key ctr (.error .innerLength)) ∧
              (5 + n.toNat ≤ d.length - 2 →
                Spec.Opens s p key ctr (.ok ((d.drop 5).take n.toNat))))))

/-- 42_symmetric_codec.md R207: DECRYPT opens what ENCRYPT built, for every padding drawn, and with any
other counter it answers COUNTER. -/
def Obligations.DecryptOpensEncrypt : Prop :=
  ∀ (inner : List Byte) (ctr : Word32) (key : Word64) (s : State),
    inner.length ≤ 233 →
    ∃ p draws drawCount,
      exec (.encrypt inner ctr key) s =
        .next { s with
          draws := draws, drawCount := drawCount, results := s.results ++ [.encrypt p] } ∧
      ∀ u : State, u.cfg = s.cfg →
        Spec.Opens u p key ctr (.ok inner) ∧
        ∀ c', c' ≠ ctr → Spec.Opens u p key c' (.error .counter)

/-! ### The frame codec -/

/-- 43_frame_codec.md R220: FRAME_ENCODE refuses an address above 127, then a payload of more than 250
bytes; otherwise it completes with the stuffed body. -/
def Obligations.FrameEncodeBuilds : Prop :=
  ∀ (addr : Byte) (seq : Bool) (xs : List Byte) (s : State),
    Spec.Selected (.frameEncode addr seq xs) 0x09 ∧
    (127 < addr.toNat → Spec.Refused (exec (.frameEncode addr seq xs) s) s .invalidAddress) ∧
    (addr.toNat ≤ 127 → 250 < xs.length →
      Spec.Refused (exec (.frameEncode addr seq xs) s) s .payloadTooLong) ∧
    (addr.toNat ≤ 127 → xs.length ≤ 250 →
      exec (.frameEncode addr seq xs) s =
        .next { s with
          results := s.results ++ [.frameEncode (Spec.stuffed s.cfg
            (Spec.body s.cfg (Spec.addrByte seq (addr.setWidth 7)) xs))] })

/-- 43_frame_codec.md R222, section 1: STUFF completes in every state; every start marker after the first
byte stands twice, which makes the result longer by their number. That this holds whatever the first byte
is rests on log entry 30. -/
def Obligations.StuffDoublesMarkers : Prop :=
  ∀ (first : Byte) (rest : List Byte) (s : State),
    Spec.Selected (.stuff first rest) 0x0A ∧
    exec (.stuff first rest) s =
      .next { s with results := s.results ++ [.stuff (Spec.stuffed s.cfg (first :: rest))] } ∧
    (Spec.stuffed s.cfg (first :: rest)).length = (first :: rest).length + rest.count s.cfg.stx

/-- 43_frame_codec.md R241: after RX_RESET, the bytes of an encoded frame, delivered one at a time while
LINK_STATE is AWAITING_RESPONSE, make it ready, and its address, sequence bit and payload are read back.
RX_BYTE's own guard, an open transport (60_exceptions.md R343), is a premise. -/
def Obligations.FrameRoundTrip : Prop :=
  ∀ (a : Addr) (seq : Bool) (xs : List Byte) (s : State),
    xs.length ≤ 250 → s.linkState = .awaitingResponse → s.transportOpen = true →
    ∃ f u t,
      exec (.frameEncode (a.setWidth 8) seq xs) s =
        .next { s with results := s.results ++ [.frameEncode f] } ∧
      exec (.rxReset a) s = .next u ∧
      feed f u = .next t ∧
      t.rx.ready = true ∧
      t.rx.buf = Spec.body s.cfg (Spec.addrByte seq a) xs ∧
      (∃ sa, t.rx.buf[1]? = some sa ∧ sa &&& 0x7F = a.setWidth 8 ∧ sa.getLsbD 7 = seq) ∧
      Spec.payload t.rx.buf = xs ∧
      t = { s with rx := t.rx, log := t.log }

/-- 43_frame_codec.md, section 3, resilience: a valid frame for the expected address is accepted whatever
the deframer was doing, unless it stood in a frame with the stuff flag set or the frame's address byte is
a start marker; from WAIT_START it is accepted always. -/
def Obligations.FrameSurvivesGarbage : Prop :=
  ∀ (a : Addr) (seq : Bool) (xs : List Byte) (s : State),
    xs.length ≤ 250 → s.linkState = .awaitingResponse → s.transportOpen = true →
    s.rx.expected = some a → s.rx.ready = false →
    s.rx.state = .waitStart ∨ (s.rx.stuffed = false ∧ Spec.addrByte seq a ≠ s.cfg.stx) →
    ∃ log,
      feed (Spec.stuffed s.cfg (Spec.body s.cfg (Spec.addrByte seq a) xs)) s =
        .next { s with
          rx := Spec.accepted (Spec.body s.cfg (Spec.addrByte seq a) xs) a, log := log }

/-- 43_frame_codec.md R235 and R236: RX_BYTE drops the byte and completes with nothing changed while a
frame is ready, while no address is expected and while LINK_STATE is not AWAITING_RESPONSE; and
(60_exceptions.md R343, log entry 14) on a closed transport. -/
def Obligations.RxByteDropped : Prop :=
  ∀ (b : Byte) (s : State),
    s.rx.ready = true ∨ s.rx.expected = none ∨ s.linkState ≠ .awaitingResponse ∨
      s.transportOpen = false →
    exec (.rxByte b) s = .next s

/-- 43_frame_codec.md R224, the pseudocode of RX_BYTE, for a byte that is heard: what each byte does in
each control state of the deframer, with its log note. -/
def Obligations.RxByteFollowsDeframer : Prop :=
  ∀ (b : Byte) (a : Addr) (s : State) (buf : List Byte),
    DeframerInv s.cfg s.rx → s.rx.ready = false → s.rx.expected = some a →
    s.linkState = .awaitingResponse → s.transportOpen = true →
    (s.rx.state = .waitStart → b = s.cfg.stx →
      exec (.rxByte b) s = .next { s with rx := { Spec.fresh a with state := .inFrame, buf := [b] } }) ∧
    (s.rx.state = .waitStart → b ≠ s.cfg.stx →
      exec (.rxByte b) s = .next { s with log := s.log ++ [.garbage b] }) ∧
    (s.rx.state = .inFrame → s.rx.stuffed = false → b = s.cfg.stx →
      exec (.rxByte b) s = .next { s with rx := { s.rx with stuffed := true } }) ∧
    (s.rx.state = .inFrame → s.rx.stuffed = true → b ≠ s.cfg.stx →
      exec (.rxByte b) s = .next { s with
        rx := { Spec.fresh a with state := .inFrame, buf := [s.cfg.stx, b] }
        log := s.log ++ [.restart s.rx.buf] }) ∧
    (s.rx.state = .inFrame → (s.rx.stuffed = true ↔ b = s.cfg.stx) → buf = s.rx.buf ++ [b] →
      (buf.length < 3 →
        exec (.rxByte b) s = .next { s with rx := { s.rx with stuffed := false, buf := buf } }) ∧
      (∀ len, buf[2]? = some len → buf.length < len.toNat + 5 →
        exec (.rxByte b) s = .next { s with
          rx := { s.rx with stuffed := false, buf := buf, total := some (len.toNat + 5) } }) ∧
      (∀ len sa, buf[2]? = some len → buf[1]? = some sa → buf.length = len.toNat + 5 →
        (sa.setWidth 7 ≠ a →
          exec (.rxByte b) s = .next { s with
            rx := Spec.fresh a, log := s.log ++ [.discardAddress buf] }) ∧
        (sa.setWidth 7 = a →
          (buf.drop (buf.length - 2) = Spec.crcTail s.cfg ((buf.drop 1).take (buf.length - 3)) →
            exec (.rxByte b) s = .next { s with
              rx := Spec.accepted buf a, log := s.log ++ [.ready buf] }) ∧
          (buf.drop (buf.length - 2) ≠ Spec.crcTail s.cfg ((buf.drop 1).take (buf.length - 3)) →
            exec (.rxByte b) s = .next { s with
              rx := Spec.fresh a, log := s.log ++ [.discardCrc buf] }))))

/-- 43_frame_codec.md R240: RX_RESET completes in every state and prepares the deframer for one attempt. -/
def Obligations.RxResetPrepares : Prop :=
  ∀ (a : Addr) (s : State),
    Spec.Selected (.rxReset a) 0x0C ∧
    exec (.rxReset a) s =
      .next { s with
        rx := { state := .waitStart, stuffed := false, ready := false, buf := [], total := none,
                expected := some a } }

/-- The deframer's invariant is kept by every step; with it, 43_frame_codec.md R237: RXBUF never holds
more than 260 bytes. -/
def Obligations.DeframerInvKept : Prop :=
  ∀ s t : State, DeframerInv s.cfg s.rx → step s = .next t → DeframerInv t.cfg t.rx

/-! ### SEND_COMMAND -/

/-- 44_link_fsm.md R262: with the lock free, the first failing check of the admission, in its order,
refuses the operation; nothing but REFUSED changes. -/
def Obligations.SendRefusedInOrder : Prop :=
  ∀ (c : Command) (s : State),
    s.lock = .free →
    (s.downloadActive = true → Spec.Refused (exec (.sendCommand c) s) s .downloadActive) ∧
    (s.downloadActive = false →
      (127 < c.addr.toNat → Spec.Refused (exec (.sendCommand c) s) s .invalidAddress) ∧
      (c.addr.toNat ≤ 127 →
        (c.enc = true → c.key = none → Spec.Refused (exec (.sendCommand c) s) s .keyAbsent) ∧
        ((c.enc = true → c.key ≠ none) →
          (250 < c.cmd.length ∨ (c.enc = true ∧ 233 < c.cmd.length) →
            Spec.Refused (exec (.sendCommand c) s) s .payloadTooLong) ∧
          (c.enc = true → c.cmd.length ≤ 233 →
            s.ctr[slot (c.addr.setWidth 7)] = 0xFFFFFFFF →
            Spec.Refused (exec (.sendCommand c) s) s .counterExhausted))))

/-- 44_link_fsm.md, sections 1 and 2: an admitted unencrypted SEND_COMMAND on a free lock completes: it
takes the lock, latches the Command, resets the sequence bit of a SYNC, and compiles the frame. -/
def Obligations.SendPlainCompiles : Prop :=
  ∀ (c : Command) (s : State),
    s.lock = .free → s.downloadActive = false → c.addr.toNat ≤ 127 → c.enc = false →
    c.cmd.length ≤ 250 →
    exec (.sendCommand c) s = .next (Spec.compiled s (.host c) c c.cmd)

/-- 44_link_fsm.md, sections 1 and 2: an admitted encrypted SEND_COMMAND on a free lock completes
likewise, its payload encrypted with the address's counter, which is not changed. Where the padding stands
is log entry 29. -/
def Obligations.SendEncryptedCompiles : Prop :=
  ∀ (c : Command) (k : Word64) (s : State),
    s.lock = .free → s.downloadActive = false → c.addr.toNat ≤ 127 → c.enc = true →
    c.key = some k → c.cmd.length ≤ 233 → s.ctr[slot (c.addr.setWidth 7)] ≠ 0xFFFFFFFF →
    Spec.CompilesEncrypted (exec (.sendCommand c) s) s c k

/-- 20_memory.md R88 and 44_link_fsm.md R263: a SEND_COMMAND, in any of its spellings, that finds the lock
held waits and changes nothing else; a waiting call that is granted the free lock runs as the
SEND_COMMAND does, and while the lock is held it stays. That a wire command row is the SEND_COMMAND of its
payload (45_wire_commands.md, section 1; 30_encoding.md, section 6) is log entry 9; the list of waiting
calls is log entry 11, and whose turn it is log entry 1. -/
def Obligations.SendWaitsForLock : Prop :=
  (∀ (c : Command) (s : State), s.lock = .held →
    exec (.sendCommand c) s = .next { s with calls := s.calls ++ [.send c] }) ∧
  (∀ (a : Byte) (retry timeout : Nat) (v : Word64) (s : State), s.lock = .held →
    exec (.sync a retry timeout) s =
      .next { s with calls := s.calls ++ [.send ⟨a, false, none, retry, timeout, [s.cfg.syncCode]⟩] } ∧
    exec (.setGenerator v a retry timeout) s =
      .next { s with calls := s.calls ++
        [.send ⟨a, false, none, retry, timeout, s.cfg.setGeneratorCode :: leBytes 8 v.toNat⟩] } ∧
    exec (.setModulus v a retry timeout) s =
      .next { s with calls := s.calls ++
        [.send ⟨a, false, none, retry, timeout, s.cfg.setModulusCode :: leBytes 8 v.toNat⟩] } ∧
    exec (.requestKeyExchange v a retry timeout) s =
      .next { s with calls := s.calls ++
        [.send ⟨a, false, none, retry, timeout, s.cfg.keyExchangeCode :: leBytes 8 v.toNat⟩] }) ∧
  (∀ (code a : Byte) (params : List Byte) (enc : Bool) (key : Option Word64) (retry timeout : Nat)
    (s : State), s.lock = .held →
    exec (.otherCommand code params a enc key retry timeout) s =
      .next { s with calls := s.calls ++ [.send ⟨a, enc, key, retry, timeout, code :: params⟩] }) ∧
  (∀ (c : Command) (i : Nat) (s : State), legalConfig s.cfg = true → s.calls[i]? = some (.send c) →
    (s.lock = .free →
      step (Spec.moved (.call i) s) =
        exec (.sendCommand c) { s with calls := s.calls.eraseIdx i }) ∧
    (s.lock = .held → step (Spec.moved (.call i) s) = .next s))

/-- 45_wire_commands.md, section 1: in every state each wire command row does what the SEND_COMMAND of
its payload does, refusals and the wait for the lock included: the code, and eight little-endian bytes
where the row has a parameter; and admitted on a free lock it completes with the frame compiled,
OTHER_COMMAND also encrypted. That a row is that SEND_COMMAND is log entry 9. -/
def Obligations.WireCommandsCompile : Prop :=
  ∀ (a : Byte) (retry timeout : Nat) (s : State),
    (exec (.sync a retry timeout) s =
        exec (.sendCommand ⟨a, false, none, retry, timeout, [s.cfg.syncCode]⟩) s ∧
      (∀ v : Word64,
        exec (.setGenerator v a retry timeout) s =
          exec (.sendCommand
            ⟨a, false, none, retry, timeout, s.cfg.setGeneratorCode :: leBytes 8 v.toNat⟩) s ∧
        exec (.setModulus v a retry timeout) s =
          exec (.sendCommand
            ⟨a, false, none, retry, timeout, s.cfg.setModulusCode :: leBytes 8 v.toNat⟩) s ∧
        exec (.requestKeyExchange v a retry timeout) s =
          exec (.sendCommand
            ⟨a, false, none, retry, timeout, s.cfg.keyExchangeCode :: leBytes 8 v.toNat⟩) s) ∧
      ∀ (code : Byte) (params : List Byte) (enc : Bool) (key : Option Word64),
        exec (.otherCommand code params a enc key retry timeout) s =
          exec (.sendCommand ⟨a, enc, key, retry, timeout, code :: params⟩) s) ∧
    (s.lock = .free → s.downloadActive = false → a.toNat ≤ 127 →
    (exec (.sync a retry timeout) s =
      .next (Spec.compiled s (.host ⟨a, false, none, retry, timeout, [s.cfg.syncCode]⟩)
        ⟨a, false, none, retry, timeout, [s.cfg.syncCode]⟩ [s.cfg.syncCode])) ∧
    (∀ v : Word64,
      exec (.setGenerator v a retry timeout) s =
        .next (Spec.compiled s
          (.host ⟨a, false, none, retry, timeout, s.cfg.setGeneratorCode :: leBytes 8 v.toNat⟩)
          ⟨a, false, none, retry, timeout, s.cfg.setGeneratorCode :: leBytes 8 v.toNat⟩
          (s.cfg.setGeneratorCode :: leBytes 8 v.toNat)) ∧
      exec (.setModulus v a retry timeout) s =
        .next (Spec.compiled s
          (.host ⟨a, false, none, retry, timeout, s.cfg.setModulusCode :: leBytes 8 v.toNat⟩)
          ⟨a, false, none, retry, timeout, s.cfg.setModulusCode :: leBytes 8 v.toNat⟩
          (s.cfg.setModulusCode :: leBytes 8 v.toNat)) ∧
      exec (.requestKeyExchange v a retry timeout) s =
        .next (Spec.compiled s
          (.host ⟨a, false, none, retry, timeout, s.cfg.keyExchangeCode :: leBytes 8 v.toNat⟩)
          ⟨a, false, none, retry, timeout, s.cfg.keyExchangeCode :: leBytes 8 v.toNat⟩
          (s.cfg.keyExchangeCode :: leBytes 8 v.toNat))) ∧
    (∀ (code : Byte) (params : List Byte) (key : Option Word64), params.length ≤ 249 →
      exec (.otherCommand code params a false key retry timeout) s =
        .next (Spec.compiled s (.host ⟨a, false, key, retry, timeout, code :: params⟩)
          ⟨a, false, key, retry, timeout, code :: params⟩ (code :: params))) ∧
    (∀ (code : Byte) (params : List Byte) (k : Word64), params.length ≤ 232 →
      s.ctr[slot (a.setWidth 7)] ≠ 0xFFFFFFFF →
      Spec.CompilesEncrypted (exec (.otherCommand code params a true (some k) retry timeout) s) s
        ⟨a, true, some k, retry, timeout, code :: params⟩ k))

/-! ### The steps of an exchange -/

/-- 44_link_fsm.md R268: the write's issue, in one step, once the spacing has passed; then the transport's
answer: `ok` to wait for a response, `fail` (and any answer of a closed transport) to PORT_ERROR with
LAST_TX kept. Before the spacing has passed (R267), while a write is unanswered, and with no exchange in
progress the agent's move changes nothing; and so does an answer with no write pending (60_exceptions.md
R333). -/
def Obligations.WriteIssuedAndAnswered : Prop :=
  (∀ (s u : State) (x : Exchange),
    legalConfig s.cfg = true → s.cur = some x → s.linkState = .sending → s.write = .none →
    (∀ l, s.lastTx = some l → l + s.cfg.minSpacing ≤ s.now) →
    u = { s with
      lastTx := some s.now
      rx := Spec.fresh x.addr
      deadline := some (s.now + x.timeout)
      sent := s.sent ++ [s.txbuf]
      write := .pending (!s.transportOpen) } →
    step (Spec.moved .exchange s) = .next u ∧
    (s.transportOpen = true →
      step (Spec.moved (.written true) u) =
        .next { u with write := .none, linkState := .awaitingResponse }) ∧
    (∀ good, good = false ∨ s.transportOpen = false →
      step (Spec.moved (.written good) u) = .next (Spec.failed u x.owner .portError))) ∧
  ∀ s : State, legalConfig s.cfg = true →
    (s.linkState = .sending →
      s.write ≠ .none ∨ (∃ l, s.lastTx = some l ∧ s.now < l + s.cfg.minSpacing) →
      step (Spec.moved .exchange s) = .next s) ∧
    (s.cur = none → step (Spec.moved .exchange s) = .next s) ∧
    (∀ good, s.write = .none → step (Spec.moved (.written good) s) = .next s)

/-- 44_link_fsm.md, section 3, spacing: a step hands nothing to the transport, or it hands it TXBUF once,
no sooner than MIN_SPACING_MS after LAST_TX, and then LAST_TX is the time of that step. -/
def Obligations.SpacingRespected : Prop :=
  ∀ s t : State, step s = .next t →
    t.sent = s.sent ∨
    (t.sent = s.sent ++ [s.txbuf] ∧ (∀ l, s.lastTx = some l → l + s.cfg.minSpacing ≤ s.now) ∧
      t.lastTx = some s.now ∧ t.now = s.now ∧ s.linkState = .sending)

/-- 44_link_fsm.md R270: when the deadline has passed, no frame is ready and the transport is open, the
exchange finishes with TIMEOUT if at most one attempt is left, and otherwise one attempt is taken off and
it sends again, TXBUF, SEQ and CTR unchanged. -/
def Obligations.TimeoutRetries : Prop :=
  ∀ (s : State) (x : Exchange) (d : Nat),
    legalConfig s.cfg = true → s.cur = some x → s.linkState = .awaitingResponse →
    s.rx.ready = false → s.transportOpen = true → s.deadline = some d → d ≤ s.now →
    (x.retriesLeft ≤ 1 → step (Spec.moved .exchange s) = .next (Spec.failed s x.owner .timeout)) ∧
    (1 < x.retriesLeft →
      step (Spec.moved .exchange s) = .next { s with
        linkState := .sending, cur := some { x with retriesLeft := x.retriesLeft - 1 } })

/-- 60_exceptions.md, section 2, the other branches of the wait: a closed transport without a ready frame
gives PORT_ERROR whatever the deadline; with nothing to wait for the agent stays; and a ready frame whose
deadline has passed is decoded or times out, as the draw says (which draw is which is the model's choice,
log entry 6). -/
def Obligations.WaitBranches : Prop :=
  ∀ (s : State) (x : Exchange),
    legalConfig s.cfg = true → s.cur = some x → s.linkState = .awaitingResponse →
    (s.rx.ready = false → s.transportOpen = false →
      step (Spec.moved .exchange s) = .next (Spec.failed s x.owner .portError)) ∧
    (s.rx.ready = false → s.transportOpen = true → (∀ d, s.deadline = some d → s.now < d) →
      step (Spec.moved .exchange s) = .next s) ∧
    (∀ d v rest, s.rx.ready = true → s.transportOpen = true → s.deadline = some d → d ≤ s.now →
      s.draws = v :: rest →
      (v % 2 = 0 →
        step (Spec.moved .exchange s) =
          step (Spec.moved .exchange { s with draws := rest, deadline := none })) ∧
      (v % 2 = 1 → x.retriesLeft ≤ 1 →
        step (Spec.moved .exchange s) =
          .next (Spec.failed { s with draws := rest } x.owner .timeout)) ∧
      (v % 2 = 1 → 1 < x.retriesLeft →
        step (Spec.moved .exchange s) = .next { s with
          draws := rest, linkState := .sending
          cur := some { x with retriesLeft := x.retriesLeft - 1 } }))

/-- 44_link_fsm.md R271 to R276 and R285, section 4, and for a NEGOTIATE's exchange
41_key_negotiation.md R173 and R174, section 3: what a ready frame does to the exchange that waits for it,
in plain text and encrypted: the packet errors, the status and data of a decoded response, the toggled
sequence bit, and the counter that counts when both sides were encrypted. How a NEGOTIATE goes on is laid
into the calls as log entries 11 and 18 say. -/
def Obligations.ResponseDecoded : Prop :=
  ∀ (s : State) (x : Exchange),
    legalConfig s.cfg = true → s.cur = some x → s.linkState = .awaitingResponse →
    s.rx.ready = true →
    (∀ d, s.deadline = some d → s.now < d) ∨ s.transportOpen = false →
    (Spec.payload s.rx.buf = [] →
      step (Spec.moved .exchange s) = .next (Spec.failed s x.owner (.packetError .empty))) ∧
    (∀ st data, Spec.payload s.rx.buf = st :: data → st ≠ s.cfg.encMarker →
      step (Spec.moved .exchange s) =
        .next (Spec.answered { s with seq := Spec.toggled s x.addr } x.owner
          (Spec.resultOf s.cfg st data) data)) ∧
    (∀ cipher, Spec.payload s.rx.buf = s.cfg.encMarker :: cipher → x.key = none →
      step (Spec.moved .exchange s) = .next (Spec.failed s x.owner (.packetError .noKey))) ∧
    (∀ cipher k r, Spec.payload s.rx.buf = s.cfg.encMarker :: cipher → x.key = some k →
      Spec.Opens s (s.cfg.encMarker :: cipher) k s.ctr[slot x.addr] r →
      (∀ e, r = .error e →
        step (Spec.moved .exchange s) = .next (Spec.failed s x.owner (.packetError e))) ∧
      (r = .ok [] →
        step (Spec.moved .exchange s) = .next (Spec.failed s x.owner (.packetError .empty))) ∧
      (∀ st data, r = .ok (st :: data) →
        step (Spec.moved .exchange s) =
          .next (Spec.answered { s with
            seq := Spec.toggled s x.addr
            ctr := if x.enc = true then s.ctr.set (slot x.addr) (s.ctr[slot x.addr] + 1) else s.ctr }
            x.owner (Spec.resultOf s.cfg st data) data)))

/-! ### The wire response rows -/

/-- 45_wire_commands.md, section 2: with the deframer fresh for the frame's address and an exchange
waiting, each plain response row completes: its frame is accepted, and the exchange ends with the row's
result and data. That the frame's bytes and the decoding are one step is the model's choice (log
entry 10). -/
def Obligations.ResponseRowsAnswer : Prop :=
  ∀ (sa : Byte) (data : List Byte) (s : State) (x : Exchange),
    s.cfg.okCode = 0xF0 → s.cfg.notProcessedCode = 0xF5 → s.cfg.busySubreason = 3 →
    s.cfg.encMarker = 0x7E →
    s.cur = some x → s.linkState = .awaitingResponse → s.transportOpen = true →
    x.addr = sa.setWidth 7 → s.rx = Spec.fresh (sa.setWidth 7) →
    (data.length ≤ 254 →
      exec (.ok sa data) s =
        .next (Spec.answered { Spec.heard s sa (0xF0 :: data) with seq := Spec.toggled s x.addr }
          x.owner (.resp 0xF0) data)) ∧
    (data.length ≤ 253 →
      exec (.deviceBusy sa data) s =
        .next (Spec.answered
          { Spec.heard s sa (0xF5 :: 3 :: data) with seq := Spec.toggled s x.addr }
          x.owner .busy (3 :: data))) ∧
    (data.length ≤ 254 → data.head? ≠ some 3 →
      exec (.commandNotProcessed sa data) s =
        .next (Spec.answered { Spec.heard s sa (0xF5 :: data) with seq := Spec.toggled s x.addr }
          x.owner (.resp 0xF5) data)) ∧
    (∀ status : Byte, data.length ≤ 254 → status ≠ 0xF0 → status ≠ 0xF5 → status ≠ 0x7E →
      exec (.otherStatus status sa data) s =
        .next (Spec.answered { Spec.heard s sa (status :: data) with seq := Spec.toggled s x.addr }
          x.owner (.resp status) data))

/-- 45_wire_commands.md, section 2, the marker row: under the same conditions an encrypted packet
completes: NO_KEY without a key, DECRYPT's error, EMPTY, or the result of the opened response. The one
step is the model's choice (log entry 10), and so is the configured marker (log entry 33). -/
def Obligations.EncryptedPacketAnswers : Prop :=
  ∀ (sa : Byte) (cipher : List Byte) (s : State) (x : Exchange),
    s.cur = some x → s.linkState = .awaitingResponse → s.transportOpen = true →
    x.addr = sa.setWidth 7 → s.rx = Spec.fresh (sa.setWidth 7) → cipher.length ≤ 254 →
    (x.key = none →
      exec (.encryptedPacket sa cipher) s =
        .next (Spec.failed (Spec.heard s sa (s.cfg.encMarker :: cipher)) x.owner
          (.packetError .noKey))) ∧
    (∀ k r, x.key = some k →
      Spec.Opens s (s.cfg.encMarker :: cipher) k s.ctr[slot x.addr] r →
      (∀ e, r = .error e →
        exec (.encryptedPacket sa cipher) s =
          .next (Spec.failed (Spec.heard s sa (s.cfg.encMarker :: cipher)) x.owner
            (.packetError e))) ∧
      (r = .ok [] →
        exec (.encryptedPacket sa cipher) s =
          .next (Spec.failed (Spec.heard s sa (s.cfg.encMarker :: cipher)) x.owner
            (.packetError .empty))) ∧
      (∀ st data, r = .ok (st :: data) →
        exec (.encryptedPacket sa cipher) s =
          .next (Spec.answered { Spec.heard s sa (s.cfg.encMarker :: cipher) with
            seq := Spec.toggled s x.addr
            ctr := if x.enc = true then s.ctr.set (slot x.addr) (s.ctr[slot x.addr] + 1) else s.ctr }
            x.owner (Spec.resultOf s.cfg st data) data)))

/-- 45_wire_commands.md, section 2, and 43_frame_codec.md, section 2: whatever the deframer was doing, a
response row is the arrival of its frame's bytes one by one, and, exactly if they made a frame ready for
the exchange in progress, the agent's DECODE of it (R269), taken before the deadline is looked at. A
frame for another address than the fresh deframer expects is discarded (R232) and changes nothing else.
That the bytes and the decoding are one step is the model's choice (log entry 10), and so is that the
frame carries the configured codes (log entry 33). -/
def Obligations.ResponseRowsAreFrames : Prop :=
  ∀ (sa : Byte) (p : List Byte) (i : Instr) (s : State),
    Spec.RowOf s.cfg sa i p → legalConfig s.cfg = true →
    (∃ t, feed (Spec.stuffed s.cfg (Spec.body s.cfg sa p)) s = .next t ∧
      (s.rx.ready = false → t.rx.ready = true → t.cur ≠ none →
        exec i s = step (Spec.moved .exchange { t with deadline := none })) ∧
      (s.rx.ready = true ∨ t.rx.ready = false ∨ t.cur = none → exec i s = .next t)) ∧
    (∀ a, s.rx = Spec.fresh a → s.linkState = .awaitingResponse → s.transportOpen = true →
      sa.setWidth 7 ≠ a → p.length ≤ 255 →
      exec i s = .next { s with log := s.log ++ [.discardAddress (Spec.body s.cfg sa p)] })

/-- 43_frame_codec.md, section 2: a device's frame that the deframer does not hear changes nothing; nor does
one on a closed transport (60_exceptions.md, section 5; log entry 14). That a response row is such a frame
is log entry 10. -/
def Obligations.ResponseRowsUnheard : Prop :=
  ∀ (sa status : Byte) (data : List Byte) (s : State),
    s.rx.ready = true ∨ s.rx.expected = none ∨ s.linkState ≠ .awaitingResponse ∨
      s.transportOpen = false →
    exec (.ok sa data) s = .next s ∧ exec (.deviceBusy sa data) s = .next s ∧
    exec (.commandNotProcessed sa data) s = .next s ∧
    exec (.otherStatus status sa data) s = .next s ∧
    exec (.encryptedPacket sa data) s = .next s

/-! ### Whole exchanges -/

/-- 44_link_fsm.md, sections 3 and 5, transmission count, over every run: an exchange starts with
max(R, 1) writes to spend, R its host's or its NEGOTIATE's retry level; a step of it spends one exactly
when it hands over TXBUF, which stays as it is; when the agent takes the timeout path (the tie's draw: log
entry 6), the exchange ends exactly if none is left; and a host gets TIMEOUT only then. -/
def Obligations.TransmissionBudget : Prop :=
  ∀ s t : State, LinkInv s → step s = .next t →
    (s.cur = none → ∀ y, t.cur = some y →
      Spec.writesLeft t y = max y.retriesLeft 1 ∧ t.sent = s.sent ∧
        (∀ c, y.owner = .host c → y.retriesLeft = c.retry) ∧
        ∀ n k, y.owner = .negotiation n k → y.retriesLeft = n.retry) ∧
    (∀ x, s.cur = some x → ∀ y, t.cur = some y →
      y.owner = x.owner ∧ y.addr = x.addr ∧ t.txbuf = s.txbuf ∧
      ((t.sent = s.sent ∧ Spec.writesLeft t y = Spec.writesLeft s x) ∨
        (t.sent = s.sent ++ [s.txbuf] ∧ Spec.writesLeft t y + 1 = Spec.writesLeft s x))) ∧
    (∀ x, s.cur = some x → t.cur = none →
      t.sent = s.sent ∧
      ∀ c, t.results = s.results ++ [.exchange c .timeout []] → Spec.writesLeft s x = 0) ∧
    (∀ x, s.cur = some x → legalConfig s.cfg = true → Spec.AgentMoves s → Spec.TimesOut s →
      (t.cur = none ↔ Spec.writesLeft s x = 0))

/-- 44_link_fsm.md, section 5: an exchange with retry level R that no response comes to, with every write
answered `ok` and time going on as the rules need, issues max(R, 1) writes of TXBUF and then returns
TIMEOUT, the lock free, SEQ and CTR as before. -/
def Obligations.SilentExchangeTimesOut : Prop :=
  ∀ (s : State) (x : Exchange) (c : Command) (times : List (Nat × Nat)),
    legalConfig s.cfg = true → s.cur = some x → x.owner = .host c → s.linkState = .sending →
    s.write = .none → s.transportOpen = true → times.length = max x.retriesLeft 1 →
    Spec.Paced s.cfg.minSpacing x.timeout s.lastTx s.now times →
    ∃ t : State,
      Host.Core.run Sys2Proof.core (5 * times.length)
        { s with events := Spec.silence times ++ s.events } = .next t ∧
      t.sent = s.sent ++ List.replicate (max x.retriesLeft 1) s.txbuf ∧
      t.results = s.results ++ [.exchange c .timeout []] ∧
      t.lock = .free ∧ t.linkState = .idle ∧ t.cur = none ∧
      t.seq = s.seq ∧ t.ctr = s.ctr ∧ t.events = s.events

/-- 44_link_fsm.md, sections 4 and 5, and 60_exceptions.md, section 1: an exchange that ends releases the
lock, leaves LINK_STATE at IDLE, and hands back exactly one result, a host's exchange to its host (a
NEGOTIATE's: log entries 11 and 18). Whosever it is, it ends in one of two ways: without a decoded
response, with SEQ and CTR as they were, a host's `resp` empty and a NEGOTIATE failed; or with the response
that its ready frame decodes to, SEQ toggled and CTR counted if both sides were encrypted. -/
def Obligations.ExchangeEndsOnce : Prop :=
  ∀ (s t : State) (x : Exchange), LinkInv s → s.cur = some x → step s = .next t → t.cur = none →
    t.lock = .free ∧ t.linkState = .idle ∧ t.deadline = none ∧ t.write = .none ∧
    t.txbuf = s.txbuf ∧ t.lastTx = s.lastTx ∧ t.refused = s.refused ∧
    (∀ c, x.owner = .host c → t.calls = s.calls) ∧
    (∀ n k, x.owner = .negotiation n k →
      (t.calls = s.calls ∧ t.results = s.results ++ [.negotiate n.addr none]) ∨
      ∃ stage, t.calls = s.calls ++ [.negotiation n stage] ∧ t.results = s.results) ∧
    ((t.seq = s.seq ∧ t.ctr = s.ctr ∧
        (∀ c, x.owner = .host c →
          ∃ st, (st = .timeout ∨ st = .portError ∨ ∃ e, st = .packetError e) ∧
            t.results = s.results ++ [.exchange c st []]) ∧
        ∀ n k, x.owner = .negotiation n k →
          t.calls = s.calls ∧ t.results = s.results ++ [.negotiate n.addr none]) ∨
      ∃ rxEnc status data,
        s.linkState = .awaitingResponse ∧ t.rx.ready = true ∧
        Spec.Decoded s x (Spec.payload t.rx.buf) rxEnc status data ∧
        t.seq = Spec.toggled s x.addr ∧ t.ctr = Spec.counted s x rxEnc ∧
        ∀ c, x.owner = .host c →
          t.results = s.results ++ [.exchange c (Spec.resultOf s.cfg status data) data])

/-! ### Invariants -/

/-- The link agent's control state stays coherent (44_link_fsm.md, sections 2 to 5). -/
def Obligations.LinkInvKept : Prop :=
  ∀ s t : State, LinkInv s → step s = .next t → LinkInv t

/-- What admission establishes of the exchange in progress holds as long as it lasts (44_link_fsm.md,
section 2). -/
def Obligations.ExchangeInvKept : Prop :=
  ∀ s t : State, ExchangeInv s → step s = .next t → ExchangeInv t

/-- 10_state.md, section 5: the table entries 128 to 199 keep their reset values. -/
def Obligations.TableInvKept : Prop :=
  ∀ s t : State, TableInv s → step s = .next t → TableInv t

/-- LAST_TX is never in the future (10_state.md, sections 6 and 7). -/
def Obligations.TimeInvKept : Prop :=
  ∀ s t : State, TimeInv s → step s = .next t → TimeInv t ∧ s.now ≤ t.now

/-- The state after reset has every invariant, and stays as it is until something arrives
(70_reset_and_hazards.md, section 1). -/
def Obligations.ResetHasInvariants : Prop :=
  LinkInv State.reset ∧ ExchangeInv State.reset ∧ TableInv State.reset ∧ TimeInv State.reset ∧
  DeframerInv State.reset.cfg State.reset.rx ∧ Unrefused State.reset ∧ Ended State.reset ∧
  step State.reset = .next State.reset

/-- 44_link_fsm.md, section 5, counter monotonicity: a counter changes only by one more, at the end of an
encrypted exchange with its address whose sequence bit then toggles, or to zero, outside any exchange. -/
def Obligations.CounterChanges : Prop :=
  ∀ (s t : State) (i : Fin nAddr), step s = .next t → t.ctr[i] ≠ s.ctr[i] →
    (t.ctr[i] = s.ctr[i] + 1 ∧ t.seq[i] = (!s.seq[i]) ∧ t.cur = none ∧
      s.linkState = .awaitingResponse ∧
      ∃ x, s.cur = some x ∧ slot x.addr = i ∧ x.enc = true ∧ x.key ≠ none) ∨
    (t.ctr[i] = 0 ∧ s.lock = .free)

/-- 10_state.md, section 5: a sequence bit changes only at the end of an exchange with its address, or to
SEQ_INIT outside any exchange. -/
def Obligations.SequenceBitChanges : Prop :=
  ∀ (s t : State) (i : Fin nAddr), step s = .next t → t.seq[i] ≠ s.seq[i] →
    (t.cur = none ∧ s.linkState = .awaitingResponse ∧ ∃ x, s.cur = some x ∧ slot x.addr = i) ∨
    (t.seq[i] = s.cfg.seqInit ∧ s.lock = .free)

/-- 10_state.md R32: no operation writes a configuration register. -/
def Obligations.ConfigurationFixed : Prop :=
  ∀ s t : State, step s = .next t → t.cfg = s.cfg

/-- 10_state.md, section 4, and log entry 4: no step takes a reason out of REFUSED, but one whose message
is a RESET, found with the lock free, LINK_STATE at IDLE and no NEGOTIATE in progress, which empties
it. -/
def Obligations.RefusalsStick : Prop :=
  ∀ s t : State, step s = .next t →
    (∀ r, r ∈ s.refused → r ∈ t.refused) ∨
    (Spec.ResetNext s ∧ t.refused = [] ∧ s.lock = .free ∧ s.linkState = .idle ∧
      ∀ n stage, Call.negotiation n stage ∉ s.calls)

/-! ### RESET and the events -/

/-- 70_reset_and_hazards.md R370 and 92_eei_decisions.md D52: RESET completes with the lock free, LINK_STATE
at IDLE and no NEGOTIATE in progress, with every element at its reset value, which `State.reset` has too;
otherwise it is refused. The time input, the ports (log entries 3 and 21) and the SEND_COMMANDs waiting at
`acquire LOCK` (log entry 27) are no elements of the engine and stay. -/
def Obligations.ResetSetsEveryElement : Prop :=
  (∀ s : State, legalConfig s.cfg = true →
    (s.lock = .free → s.linkState = .idle → (∀ n stage, Call.negotiation n stage ∉ s.calls) →
      ∃ t, exec .reset s = .next t ∧
        t.linkState = .idle ∧ t.rx.state = .waitStart ∧ t.rx.stuffed = false ∧ t.rx.ready = false ∧
        t.lock = .free ∧ t.downloadActive = false ∧ t.transportOpen = false ∧ t.refused = [] ∧
        (∀ i : Fin nAddr, t.seq[i] = s.cfg.seqInit ∧ t.ctr[i] = 0) ∧
        t.cur = none ∧ t.deadline = none ∧ t.calls = s.calls ∧ t.txbuf = [] ∧ t.rx.buf = [] ∧
        t.lastTx = none ∧ t.rx.total = none ∧ t.rx.expected = none ∧ t.cfg = s.cfg ∧
        t = { State.resetWith s.cfg with
          now := s.now, calls := s.calls, events := s.events, draws := s.draws
          drawCount := s.drawCount, sent := s.sent, results := s.results, log := s.log }) ∧
    (s.lock = .held ∨ s.linkState ≠ .idle ∨ (∃ n stage, Call.negotiation n stage ∈ s.calls) →
      Spec.Refused (exec .reset s) s .resetInExchange)) ∧
  State.reset = State.resetWith Config.ssp

/-- 60_exceptions.md, section 4: TIME completes with the new time, and only with it, for a time not before
`now`; an earlier time is no event of the machine (log entry 15). -/
def Obligations.TimeAdvances : Prop :=
  ∀ (t : Nat) (s : State),
    (s.now ≤ t → exec (.time t) s = .next { s with now := t }) ∧
    (t < s.now → exec (.time t) s = .refused .timeBackwards)

/-- 60_exceptions.md, section 5, and 92_eei_decisions.md D37: OPEN completes in every state, with ok or
fail as the environment draws; ok opens the transport and fail leaves it closed. Which draw is which is
the model's choice (log entry 6), and so is that a write under way when a failed OPEN closes the transport
can then only fail (log entry 25). -/
def Obligations.OpenDraws : Prop :=
  ∀ (port : List Byte) (s : State),
    (∃ ok draws drawCount,
      exec (.openPort port) s = .next { s with
        draws := draws, drawCount := drawCount, transportOpen := ok
        write := if ok = true ∨ s.write = .none then s.write else .pending true
        results := s.results ++ [.opened ok] }) ∧
    (∀ ok rest, s.draws = (if ok = true then 1 else 0) :: rest →
      exec (.openPort port) s = .next { s with
        draws := rest, transportOpen := ok
        write := if ok = true ∨ s.write = .none then s.write else .pending true
        results := s.results ++ [.opened ok] })

/-- 60_exceptions.md, section 5, and 44_link_fsm.md, section 3: CLOSE completes in every state; a write
that is under way can then only fail: whatever answers it ends its exchange with PORT_ERROR, with the
transport still closed and after any OPEN that comes in between (log entry 13). That CLOSE hands nothing
back is log entry 34. -/
def Obligations.CloseDooms : Prop :=
  ∀ s : State,
    exec .closePort s = .next { s with
      transportOpen := false
      write := if s.write = .none then .none else .pending true } ∧
    ∀ (t u : State) (x : Exchange) (good : Bool),
      legalConfig s.cfg = true → s.cur = some x → s.write ≠ .none →
      exec .closePort s = .next t →
      (u = t ∨ ∃ port, exec (.openPort port) t = .next u) →
      step (Spec.moved (.written good) u) = .next (Spec.failed u x.owner .portError)

/-- 60_exceptions.md, section 5: DOWNLOAD completes in every state and sets the flag, and then every
SEND_COMMAND on a free lock and every NEGOTIATE is refused (70_reset_and_hazards.md, section 3;
92_eei_decisions.md D38). That a NEGOTIATE is refused when it is called, and for an address above 127 with
that reason instead, is log entry 32. -/
def Obligations.DownloadSets : Prop :=
  ∀ (v : Bool) (s : State),
    exec (.download v) s = .next { s with downloadActive := v } ∧
    (∀ c, v = true → s.lock = .free →
      Spec.Refused (exec (.sendCommand c) { s with downloadActive := v })
        { s with downloadActive := v } .downloadActive) ∧
    ∀ (a : Byte) (retry timeout : Nat), v = true → a.toNat ≤ 127 →
      Spec.Refused (exec (.negotiate a retry timeout) { s with downloadActive := v })
        { s with downloadActive := v } .downloadActive

/-! ### NEGOTIATE -/

/-- 41_key_negotiation.md R177, section 3: an address above 127 is refused before any draw and before the
counter reset. That it is refused with that reason while a download is active too is log entry 32. -/
def Obligations.NegotiateRefusesAddress : Prop :=
  ∀ (a : Byte) (retry timeout : Nat) (s : State), 127 < a.toNat →
    Spec.Refused (exec (.negotiate a retry timeout) s) s .invalidAddress

/-- 41_key_negotiation.md, sections 2 and 3: NEGOTIATE with the values the draw input delivers completes:
FAIL if the generator is 0, else the registers are written, the counter is reset if the lock is free, and
the SYNC comes next. With a download active it is refused instead (`DownloadSets`). -/
def Obligations.NegotiateStarts : Prop :=
  ∀ (a : Byte) (retry timeout p q r : Nat) (rest : List Nat) (s : State) (n : Negotiation),
    legalConfig s.cfg = true → a.toNat ≤ 127 → s.downloadActive = false →
    s.draws = p :: q :: r :: rest →
    p < 2 ^ s.cfg.primeBits → q < 2 ^ s.cfg.primeBits → p ≠ q → r < s.cfg.secretBound →
    n = { addr := a, retry := retry, timeout := timeout,
          g := BitVec.ofNat 64 (min p q), m := BitVec.ofNat 64 (max p q), r := BitVec.ofNat 64 r,
          a := BitVec.ofNat 64 (min p q ^ r % max p q) } →
    (min p q = 0 →
      exec (.negotiate a retry timeout) s = .next { s with
        draws := rest, results := s.results ++ [.negotiate a none] }) ∧
    (min p q ≠ 0 → s.lock = .free →
      exec (.negotiate a retry timeout) s = .next { s with
        draws := rest
        ctr := s.ctr.set (slot (a.setWidth 7)) 0
        calls := s.calls ++ [.negotiation n (.command .sync)] }) ∧
    (min p q ≠ 0 → s.lock = .held →
      exec (.negotiate a retry timeout) s = .next { s with
        draws := rest, calls := s.calls ++ [.negotiation n .resetCounter] })

/-- 41_key_negotiation.md, section 2: NEGOTIATE completes in every state, whatever is drawn, from a draw
list that is used up too (log entries 5 and 20). It is refused for an address above 127, then while a
download is active (log entry 32). Otherwise it returns FAIL if the generator drawn is 0, and goes on if
it is not, with a generator below the modulus, both below 2^PRIME_BITS, and a host random below
SECRET_BOUND: its call joins the others, at its SYNC if the lock is free and the counter reset with that,
at the counter reset if not. Two equal primes in the draw list are drawn again (R168). -/
def Obligations.NegotiateDrawsInRange : Prop :=
  ∀ (a : Byte) (retry timeout : Nat) (s : State), legalConfig s.cfg = true →
    (127 < a.toNat → Spec.Refused (exec (.negotiate a retry timeout) s) s .invalidAddress) ∧
    (a.toNat ≤ 127 → s.downloadActive = true →
      Spec.Refused (exec (.negotiate a retry timeout) s) s .downloadActive) ∧
    (a.toNat ≤ 127 → s.downloadActive = false →
      (∃ draws drawCount,
        (s.drawNegotiation.1.g = 0 →
          exec (.negotiate a retry timeout) s = .next { s with
            draws := draws, drawCount := drawCount
            results := s.results ++ [.negotiate a none] }) ∧
        (s.drawNegotiation.1.g ≠ 0 → ∃ n : Negotiation,
          n.g = s.drawNegotiation.1.g ∧
          0 < n.g.toNat ∧ n.g.toNat < n.m.toNat ∧ n.m.toNat < 2 ^ s.cfg.primeBits ∧
          n.r.toNat < s.cfg.secretBound ∧ n.a.toNat = n.g.toNat ^ n.r.toNat % n.m.toNat ∧
          n.addr = a ∧ n.retry = retry ∧ n.timeout = timeout ∧
          exec (.negotiate a retry timeout) s = .next { s with
            draws := draws, drawCount := drawCount
            ctr := if s.lock = .free then s.ctr.set (slot (a.setWidth 7)) 0 else s.ctr
            calls := s.calls ++
              [.negotiation n (if s.lock = .free then .command .sync else .resetCounter)] })) ∧
      ∀ p q rest, p % 2 ^ s.cfg.primeBits = q % 2 ^ s.cfg.primeBits →
        exec (.negotiate a retry timeout) { s with draws := p :: q :: rest } =
          exec (.negotiate a retry timeout) { s with draws := rest })

/-- 41_key_negotiation.md, section 3: the steps of a NEGOTIATE between its exchanges: the counter reset,
the four commands with their payloads, the derivation of the key and its return; those that need the lock
wait while it is held. -/
def Obligations.NegotiationAdvances : Prop :=
  ∀ (s : State) (i : Nat) (n : Negotiation) (stage : NegStage),
    legalConfig s.cfg = true → s.calls[i]? = some (.negotiation n stage) →
    (stage = .resetCounter → s.lock = .free →
      step (Spec.moved (.call i) s) = .next { s with
        ctr := s.ctr.set (slot (n.addr.setWidth 7)) 0
        calls := s.calls.set i (.negotiation n (.command .sync)) }) ∧
    (∀ k payload, stage = .command k → s.lock = .free →
      payload = (match k with
        | .sync => [s.cfg.syncCode]
        | .setGenerator => s.cfg.setGeneratorCode :: leBytes 8 n.g.toNat
        | .setModulus => s.cfg.setModulusCode :: leBytes 8 n.m.toNat
        | .keyExchange => s.cfg.keyExchangeCode :: leBytes 8 n.a.toNat) →
      (s.downloadActive = true →
        Spec.Refused (step (Spec.moved (.call i) s)) { s with calls := s.calls.eraseIdx i }
          .downloadActive) ∧
      (s.downloadActive = false → n.addr.toNat ≤ 127 →
        step (Spec.moved (.call i) s) =
          .next (Spec.compiled { s with calls := s.calls.eraseIdx i } (.negotiation n k)
            ⟨n.addr, false, none, n.retry, n.timeout, payload⟩ payload))) ∧
    (s.lock = .held → (stage = .resetCounter ∨ ∃ k, stage = .command k) →
      step (Spec.moved (.call i) s) = .next s) ∧
    (∀ b, stage = .derive b →
      (b = 0 ∨ n.m = 0 → step (Spec.moved (.call i) s) = .next { s with
        calls := s.calls.eraseIdx i, results := s.results ++ [.negotiate n.addr none] }) ∧
      (b ≠ 0 → n.m ≠ 0 → step (Spec.moved (.call i) s) = .next { s with
        calls := s.calls.set i (.negotiation n (.answer b
          (BitVec.ofNat 64 (b.toNat ^ n.r.toNat % n.m.toNat)))) })) ∧
    (∀ b k, stage = .answer b k → step (Spec.moved (.call i) s) = .next { s with
      calls := s.calls.eraseIdx i, results := s.results ++ [.negotiate n.addr (some k)] })

/-- 41_key_negotiation.md R178: if the device answers B = G^b mod M for its own secret b, the key NEGOTIATE
returns is A^b mod M, the value the device derives from the host's A. -/
def Obligations.NegotiatedKeysAgree : Prop :=
  ∀ (s : State) (i b : Nat) (n : Negotiation) (peer : Word64),
    legalConfig s.cfg = true → s.calls[i]? = some (.negotiation n (.derive peer)) →
    n.m ≠ 0 → peer ≠ 0 → n.a.toNat = n.g.toNat ^ n.r.toNat % n.m.toNat →
    peer.toNat = n.g.toNat ^ b % n.m.toNat →
    ∃ (key : Word64) (t u : State),
      step (Spec.moved (.call i) s) = .next t ∧ step (Spec.moved (.call i) t) = .next u ∧
      key.toNat = n.a.toNat ^ b % n.m.toNat ∧ key.toNat = n.g.toNat ^ (b * n.r.toNat) % n.m.toNat ∧
      u = { s with
        calls := s.calls.eraseIdx i, results := s.results ++ [.negotiate n.addr (some key)] }

/-! ### Encoding and the step -/

/-- Decoding an encoded well-formed instruction gives it back, for every row and every operand. -/
def Obligations.DecodeEncode : Prop :=
  ∀ i : Instr, i.wf = true → decode i.format (encode i) = .ok i

/-- A step runs the instruction the next message decodes to, in the state without that message, and
nothing else; a message that decodes to none is refused as such, and so is every first byte that is no
selector of 30_encoding.md, section 5: 0x00, 0x0F, and 0x14 up; with no legal configuration every message
is refused instead (10_state.md, section 2; log entry 16). -/
def Obligations.StepRunsDecoded : Prop :=
  ∀ (s : State) (fmt : Format) (bytes : List Byte) (rest : List Event),
    s.events = .operation fmt bytes :: rest →
    (legalConfig s.cfg = true →
      (∀ i, decode fmt bytes = .ok i → step s = exec i { s with events := rest }) ∧
      (∀ e, decode fmt bytes = .error e → step s = .refused (.undecodable e)) ∧
      (∀ b bs, fmt = .operation → bytes = b :: bs → b = 0x00 ∨ b = 0x0F ∨ 0x14 ≤ b.toNat →
        step s = .refused (.undecodable (.unknownSelector b)))) ∧
    (legalConfig s.cfg = false →
      Spec.Refused (step s) { s with events := rest } .badConfig)

/-- 10_state.md R33, section 2: a configuration that breaks one of the constraints (a) to (d) is refused
before any operation, and no other is. That every step refuses it again and takes its event off the list
is log entry 16; that a configuration which keeps (a) to (d) is never refused, whatever STX,
MIN_SPACING_MS, BUSY_SUBREASON or SYNC_CODE hold against the legal values of R31, is log entry 31. -/
def Obligations.BadConfigurationRefused : Prop :=
  ∀ s : State,
    (¬(s.cfg.encMarker ≠ s.cfg.stx ∧ s.cfg.crcPoly ≠ 0 ∧
        (1 ≤ s.cfg.secretBound ∧ s.cfg.secretBound ≤ 2 ^ 64) ∧
        (2 ≤ s.cfg.primeBits ∧ s.cfg.primeBits ≤ 64)) →
      Spec.Refused (step s) { s with events := s.events.drop 1 } .badConfig) ∧
    ∀ t, s.cfg.encMarker ≠ s.cfg.stx → s.cfg.crcPoly ≠ 0 →
      (1 ≤ s.cfg.secretBound ∧ s.cfg.secretBound ≤ 2 ^ 64) →
      (2 ≤ s.cfg.primeBits ∧ s.cfg.primeBits ≤ 64) →
      step s = .next t → RefuseReason.badConfig ∈ t.refused → RefuseReason.badConfig ∈ s.refused

/-- Words written out from 30_encoding.md R121, R116, R117 and R107 decode to the rows they stand for. -/
def Obligations.TableWordsDecode : Prop :=
  decodeTableWord 8 0x01 = some (.crc16 [] 0 0) ∧
  decodeTableWord 8 0x0D = some (.sendCommand ⟨0, false, none, 0, 0, []⟩) ∧
  decodeTableWord 8 0x12 = some .closePort ∧
  decodeTableWord 8 0x4A = some (.setGenerator 0 0 0 0) ∧
  decodeTableWord 8 0xF0 = some (.ok 0 []) ∧
  decodeTableWord 16 0xF503 = some (.deviceBusy 0 []) ∧
  decodeTableWord 8 0xF5 = some (.commandNotProcessed 0 []) ∧
  decodeTableWord 8 0x7E = some (.encryptedPacket 0 [])
end

