-- ==== Sys2Proof/Laws/Bytes.lean ====
section
/-! SUPPORT. Laws of the byte-order helpers (spec/00_scope.md R13) and of the slices (R11). -/

namespace Sys2Proof.Machine

open Sys2Proof

@[simp] theorem leBytes_length (n v : Nat) : (leBytes n v).length = n := by
  induction n generalizing v with
  | zero => rfl
  | succ n ih => simp [leBytes, ih]

/-- `fromLE` reads back what `LE_n` writes, up to the field's width. -/
theorem fromLE_leBytes (n v : Nat) : fromLE (leBytes n v) = v % 256 ^ n := by
  induction n generalizing v with
  | zero => simp [leBytes, fromLE, Nat.mod_one]
  | succ n ih =>
    have h : v % 256 ^ (n + 1) = v % 256 + 256 * (v / 256 % 256 ^ n) := by
      rw [Nat.pow_succ, Nat.mul_comm, Nat.mod_mul]
    simp only [leBytes, fromLE, ih, BitVec.toNat_ofNat, h]

theorem fromLE_leBytes_of_lt {n v : Nat} (h : v < 256 ^ n) : fromLE (leBytes n v) = v := by
  rw [fromLE_leBytes, Nat.mod_eq_of_lt h]

/-- `fromLE` of n bytes is below 2^(8n). -/
theorem fromLE_lt (xs : List Byte) : fromLE xs < 256 ^ xs.length := by
  induction xs with
  | nil => simp [fromLE]
  | cons b bs ih =>
    have hb := b.isLt
    simp only [fromLE, List.length_cons, Nat.pow_succ]
    omega

@[simp] theorem crcBytes_length (w : Word16) : (crcBytes w).length = 2 := rfl

@[simp] theorem slice_length (xs : List Byte) (i j : Nat) :
    (slice xs i j).length = min (j + 1 - i) (xs.length - i) := by
  simp [slice, List.length_take, List.length_drop]

@[simp] theorem colBytes_length (c : Col) : (colBytes c).length = 4 := rfl

@[simp] theorem blockBytes_length (b : Block) : (blockBytes b).length = 16 := by
  simp [blockBytes]

/-- A block is read back from its bytes, whatever follows them. -/
theorem blockOfBytes_blockBytes (b : Block) (rest : List Byte) :
    blockOfBytes (blockBytes b ++ rest) = b := by
  rfl

@[simp] theorem blockOfBytes_blockBytes_self (b : Block) : blockOfBytes (blockBytes b) = b := by
  rfl

/-- Sixteen bytes are the bytes of the block they make. -/
theorem blockBytes_blockOfBytes {xs : List Byte} (h : xs.length = 16) :
    blockBytes (blockOfBytes xs) = xs := by
  match xs, h with
  | [_, _, _, _, _, _, _, _, _, _, _, _, _, _, _, _], _ => rfl

end Sys2Proof.Machine
end

