-- ==== Sys2Proof/Laws/Arithmetic.lean ====
section
/-! SUPPORT. Square and multiply computes the power (spec/41_key_negotiation.md R163). -/

namespace Sys2Proof.Machine

open Sys2Proof

/-- The loop's value: the accumulator times the base to the low `bits` bits of the exponent. -/
theorem powLoop_eq (m bits acc x k : Nat) (hacc : acc % m = acc) :
    powLoop m bits acc x k = acc * x ^ (k % 2 ^ bits) % m := by
  induction bits generalizing acc x k with
  | zero => simp [powLoop, Nat.mod_one, hacc]
  | succ bits ih =>
    have hk : k % 2 ^ (bits + 1) = k % 2 + 2 * (k / 2 % 2 ^ bits) := by
      rw [Nat.pow_succ, Nat.mul_comm, Nat.mod_mul]
    have hsq : ∀ e, (x * x % m) ^ e ≡ x ^ (2 * e) [MOD m] := fun e => by
      have := (Nat.mod_modEq (x * x) m).pow e
      rwa [show (x * x) ^ e = x ^ (2 * e) by rw [← pow_two, ← pow_mul]] at this
    rw [powLoop, ih _ _ _ (by split <;> simp [hacc]), hk]
    by_cases h : k % 2 = 1
    · simp only [h, if_true]
      have := (Nat.mod_modEq (acc * x) m).mul (hsq (k / 2 % 2 ^ bits))
      rw [Nat.pow_add, pow_one, ← Nat.mul_assoc]
      exact this
    · have h0 : k % 2 = 0 := by omega
      simp only [h0, Nat.zero_add]
      exact (Nat.ModEq.refl acc).mul (hsq (k / 2 % 2 ^ bits))

/-- `modPow b e m` is `b^e mod m` for every 64-bit exponent (41_key_negotiation.md R162). -/
theorem modPow_eq {b e m : Nat} (he : e < 2 ^ 64) : modPow b e m = b ^ e % m := by
  rw [modPow, powLoop_eq _ _ _ _ _ (by simp), Nat.mod_eq_of_lt he]
  have h := (Nat.mod_modEq 1 m).mul ((Nat.mod_modEq b m).pow e)
  rw [Nat.one_mul] at h
  exact h

end Sys2Proof.Machine
end

