-- ==== Sys2Proof/Laws/Cipher.lean ====
section
/-! SUPPORT. The inverse cipher undoes the cipher, round by round (spec/42_symmetric_codec.md R190), and ECB
keeps a buffer's length (R192). -/

namespace Sys2Proof.Machine

open Sys2Proof

theorem invSbox_sbox (b : Byte) : invSbox (sbox b) = b := by
  have h : ∀ n : Fin 256, invSbox (sbox (BitVec.ofNat 8 n.val)) = BitVec.ofNat 8 n.val := by
    decide +kernel
  have := h ⟨b.toNat, b.isLt⟩
  simpa using this

theorem sbox_invSbox (b : Byte) : sbox (invSbox b) = b := by
  have h : ∀ n : Fin 256, sbox (invSbox (BitVec.ofNat 8 n.val)) = BitVec.ofNat 8 n.val := by
    decide +kernel
  have := h ⟨b.toNat, b.isLt⟩
  simpa using this

/-- Multiplication by x is linear over XOR. -/
theorem xtime_xor (a b : Byte) : xtime (a ^^^ b) = xtime a ^^^ xtime b := by
  unfold xtime
  rw [BitVec.msb_xor, BitVec.shiftLeft_xor_distrib]
  cases a.msb <;> cases b.msb <;> simp only [Bool.xor_false, Bool.xor_true, Bool.not_true,
    Bool.not_false, if_true, if_false, Bool.false_eq_true]
  · rw [BitVec.xor_assoc]
  · rw [BitVec.xor_assoc, BitVec.xor_assoc, BitVec.xor_comm (b <<< 1)]
  · rw [BitVec.xor_assoc, BitVec.xor_comm (0x1B), BitVec.xor_assoc, BitVec.xor_self,
      BitVec.xor_zero]

theorem mixCol_xor (c d : Col) : mixCol (Col.xor c d) = Col.xor (mixCol c) (mixCol d) := by
  simp only [mixCol, Col.xor, mul3, xtime_xor, Col.mk.injEq]
  refine ⟨?_, ?_, ?_, ?_⟩ <;> ac_rfl

theorem invMixCol_xor (c d : Col) :
    invMixCol (Col.xor c d) = Col.xor (invMixCol c) (invMixCol d) := by
  simp only [invMixCol, Col.xor, mul9, mul11, mul13, mul14, xtime_xor, Col.mk.injEq]
  refine ⟨?_, ?_, ?_, ?_⟩ <;> ac_rfl

/-- The inverse on columns with one byte that is not zero, in each place. -/
theorem invMixCol_mixCol_unit (b : Byte) :
    invMixCol (mixCol ⟨b, 0, 0, 0⟩) = ⟨b, 0, 0, 0⟩ ∧ invMixCol (mixCol ⟨0, b, 0, 0⟩) = ⟨0, b, 0, 0⟩ ∧
      invMixCol (mixCol ⟨0, 0, b, 0⟩) = ⟨0, 0, b, 0⟩ ∧
      invMixCol (mixCol ⟨0, 0, 0, b⟩) = ⟨0, 0, 0, b⟩ := by
  have h : ∀ n : Fin 256, (fun b : Byte =>
      invMixCol (mixCol ⟨b, 0, 0, 0⟩) = ⟨b, 0, 0, 0⟩ ∧
      invMixCol (mixCol ⟨0, b, 0, 0⟩) = ⟨0, b, 0, 0⟩ ∧
      invMixCol (mixCol ⟨0, 0, b, 0⟩) = ⟨0, 0, b, 0⟩ ∧
      invMixCol (mixCol ⟨0, 0, 0, b⟩) = ⟨0, 0, 0, b⟩) (BitVec.ofNat 8 n.val) := by
    decide +kernel
  have := h ⟨b.toNat, b.isLt⟩
  simpa using this

theorem invMixCol_mixCol (c : Col) : invMixCol (mixCol c) = c := by
  obtain ⟨a, b, d, e⟩ := c
  have hsum : (⟨a, b, d, e⟩ : Col) =
      Col.xor ⟨a, 0, 0, 0⟩ (Col.xor ⟨0, b, 0, 0⟩ (Col.xor ⟨0, 0, d, 0⟩ ⟨0, 0, 0, e⟩)) := by
    simp [Col.xor]
  rw [hsum]
  simp only [mixCol_xor, invMixCol_xor, (invMixCol_mixCol_unit _).1,
    (invMixCol_mixCol_unit _).2.1, (invMixCol_mixCol_unit _).2.2.1,
    (invMixCol_mixCol_unit _).2.2.2]

theorem invMixColumns_mixColumns (x : Block) : invMixColumns (mixColumns x) = x := by
  simp [invMixColumns, mixColumns, invMixCol_mixCol]

theorem invShiftRows_shiftRows (x : Block) : invShiftRows (shiftRows x) = x := rfl

theorem addRoundKey_addRoundKey (k x : Block) : addRoundKey k (addRoundKey k x) = x := by
  simp [addRoundKey, Col.xor]

theorem map_invSbox_map_sbox (x : Block) : Block.map invSbox (Block.map sbox x) = x := by
  simp [Block.map, Col.map, invSbox_sbox]

theorem decRounds_encRounds (ks : List Block) (x : Block) : decRounds ks (encRounds ks x) = x := by
  match ks with
  | [] => rfl
  | [k] =>
    simp [encRounds, decRounds, addRoundKey_addRoundKey, invShiftRows_shiftRows,
      map_invSbox_map_sbox]
  | k :: k' :: ks =>
    simp [encRounds, decRounds, decRounds_encRounds (k' :: ks), addRoundKey_addRoundKey,
      invShiftRows_shiftRows, invMixColumns_mixColumns, map_invSbox_map_sbox]

/-- The inverse cipher undoes the cipher (42_symmetric_codec.md R190). -/
theorem aesDec_aesEnc (k x : Block) : aesDec k (aesEnc k x) = x := by
  simp [aesDec, aesEnc, decRounds_encRounds, addRoundKey_addRoundKey]

@[simp] theorem ecbBlocks_length (f : Block → Block) (n : Nat) (buf : List Byte) :
    (ecbBlocks f n buf).length = 16 * n := by
  induction n generalizing buf with
  | zero => rfl
  | succ n ih => simp [ecbBlocks, ih]; omega

/-- ECB block by block undoes ECB block by block, when the block functions do (42_symmetric_codec.md
R192). -/
theorem ecbBlocks_ecbBlocks {f g : Block → Block} (h : ∀ x, g (f x) = x) (n : Nat)
    (buf : List Byte) (hlen : buf.length = 16 * n) :
    ecbBlocks g n (ecbBlocks f n buf) = buf := by
  induction n generalizing buf with
  | zero => simpa [ecbBlocks] using (List.length_eq_zero_iff.mp hlen).symm
  | succ n ih =>
    have htake : (buf.take 16).length = 16 := by simp; omega
    have hrest := ih (buf.drop 16) (by simp; omega)
    simp only [ecbBlocks]
    rw [List.take_append_of_le_length (by simp), List.drop_append_of_le_length (by simp)]
    rw [List.take_of_length_le (by simp), List.drop_of_length_le (by simp)]
    simp only [blockOfBytes_blockBytes_self, h, List.nil_append, hrest,
      blockBytes_blockOfBytes htake, List.take_append_drop]

end Sys2Proof.Machine
end

