-- ==== Sys2Proof/Laws/Coding.lean ====
section
/-! SUPPORT. Each operand is read back from what the encoder writes for it, whatever bytes follow. -/

namespace Sys2Proof

open Sys2Proof.Machine

@[simp] theorem readByte_cons (b : Byte) (rest : List Byte) : readByte (b :: rest) = .ok (b, rest) :=
  rfl

theorem readBytes_append {n : Nat} {xs : List Byte} (rest : List Byte) (h : xs.length = n) :
    readBytes n (xs ++ rest) = .ok (xs, rest) := by
  subst h
  simp [readBytes]

theorem readFixed_writeFixed {n w : Nat} (v : BitVec w) (rest : List Byte) (h : 2 ^ w ≤ 256 ^ n) :
    readFixed n w (writeFixed n v ++ rest) = .ok (v, rest) := by
  have hlen : (writeFixed n v).length = n := leBytes_length n v.toNat
  have hv : v.toNat < 256 ^ n := Nat.lt_of_lt_of_le v.isLt h
  simp only [readFixed, readBytes_append rest hlen, bind, Except.bind]
  simp [writeFixed, fromLE_leBytes_of_lt hv]

@[simp] theorem readFixed_writeFixed_16 (v : Word16) (rest : List Byte) :
    readFixed 2 16 (writeFixed 2 v ++ rest) = .ok (v, rest) := readFixed_writeFixed v rest (by norm_num)

@[simp] theorem readFixed_writeFixed_32 (v : Word32) (rest : List Byte) :
    readFixed 4 32 (writeFixed 4 v ++ rest) = .ok (v, rest) := readFixed_writeFixed v rest (by norm_num)

@[simp] theorem readFixed_writeFixed_64 (v : Word64) (rest : List Byte) :
    readFixed 8 64 (writeFixed 8 v ++ rest) = .ok (v, rest) := readFixed_writeFixed v rest (by norm_num)

theorem readNat_writeNatFuel (fuel n : Nat) (rest : List Byte) (h : n ≤ fuel) :
    readNat (writeNatFuel fuel n ++ rest) = .ok (n, rest) := by
  induction fuel generalizing n with
  | zero =>
    have : n = 0 := by omega
    subst this
    simp [writeNatFuel, readNat]
  | succ fuel ih =>
    by_cases hn : n < 128
    · simp [writeNatFuel, readNat, hn, Nat.mod_eq_of_lt (show n < 256 by omega)]
    · have hm : (128 + n % 128) % 256 = 128 + n % 128 := Nat.mod_eq_of_lt (by omega)
      have hd : n / 128 ≤ fuel := by omega
      have hs : n % 128 + 128 * (n / 128) = n := Nat.mod_add_div n 128
      simp [writeNatFuel, readNat, hn, hm, ih _ hd, hs]

@[simp] theorem readNat_writeNat (n : Nat) (rest : List Byte) :
    readNat (writeNat n ++ rest) = .ok (n, rest) := readNat_writeNatFuel n n rest (Nat.le_refl n)

@[simp] theorem readList_writeList (xs rest : List Byte) :
    readList (writeList xs ++ rest) = .ok (xs, rest) := by
  simp [readList, writeList, List.append_assoc, bind, Except.bind, readBytes_append]

@[simp] theorem readFlag_writeFlag (v : Bool) (rest : List Byte) :
    readFlag (writeFlag v ++ rest) = .ok (v, rest) := by
  cases v <;> simp [readFlag, writeFlag, bind, Except.bind]

@[simp] theorem readDirection_writeDirection (d : Direction) (rest : List Byte) :
    readDirection (writeDirection d ++ rest) = .ok (d, rest) := by
  cases d <;> simp [readDirection, readFlag, writeDirection, bind, Except.bind]

@[simp] theorem readKey_writeKey (k : Option Word64) (rest : List Byte) :
    readKey (writeKey k ++ rest) = .ok (k, rest) := by
  cases k <;> simp [readKey, readFlag, writeKey, bind, Except.bind]

@[simp] theorem readAddr_setWidth (a : Addr) (rest : List Byte) :
    readAddr (a.setWidth 8 :: rest) = .ok (a, rest) := by
  have h := a.isLt
  have hw : (a.setWidth 8).toNat ≤ 127 := by simp; omega
  simp [readAddr, bind, Except.bind, -BitVec.toNat_setWidth, hw]

@[simp] theorem readBlock_blockBytes (b : Block) (rest : List Byte) :
    readBlock (blockBytes b ++ rest) = .ok (b, rest) := by
  simp [readBlock, readBytes_append rest (blockBytes_length b), bind, Except.bind]

end Sys2Proof
end

