-- ==== Sys2Proof/Laws/State.lean ====
section
/-! SUPPORT. One lemma for each field of State under each named update, true by `rfl`, so that no proof
unfolds a record update. -/

namespace Sys2Proof.Machine

open Sys2Proof

/-! ### State.refuse -/

@[simp] theorem State.refuse_cfg (s : State) (r : RefuseReason) : (s.refuse r).cfg = s.cfg := rfl
@[simp] theorem State.refuse_linkState (s : State) (r : RefuseReason) : (s.refuse r).linkState = s.linkState := rfl
@[simp] theorem State.refuse_rx (s : State) (r : RefuseReason) : (s.refuse r).rx = s.rx := rfl
@[simp] theorem State.refuse_lock (s : State) (r : RefuseReason) : (s.refuse r).lock = s.lock := rfl
@[simp] theorem State.refuse_downloadActive (s : State) (r : RefuseReason) : (s.refuse r).downloadActive = s.downloadActive := rfl
@[simp] theorem State.refuse_transportOpen (s : State) (r : RefuseReason) : (s.refuse r).transportOpen = s.transportOpen := rfl
@[simp] theorem State.refuse_refused (s : State) (r : RefuseReason) : (s.refuse r).refused = addReason r s.refused := rfl
@[simp] theorem State.refuse_seq (s : State) (r : RefuseReason) : (s.refuse r).seq = s.seq := rfl
@[simp] theorem State.refuse_ctr (s : State) (r : RefuseReason) : (s.refuse r).ctr = s.ctr := rfl
@[simp] theorem State.refuse_cur (s : State) (r : RefuseReason) : (s.refuse r).cur = s.cur := rfl
@[simp] theorem State.refuse_txbuf (s : State) (r : RefuseReason) : (s.refuse r).txbuf = s.txbuf := rfl
@[simp] theorem State.refuse_lastTx (s : State) (r : RefuseReason) : (s.refuse r).lastTx = s.lastTx := rfl
@[simp] theorem State.refuse_deadline (s : State) (r : RefuseReason) : (s.refuse r).deadline = s.deadline := rfl
@[simp] theorem State.refuse_now (s : State) (r : RefuseReason) : (s.refuse r).now = s.now := rfl
@[simp] theorem State.refuse_write (s : State) (r : RefuseReason) : (s.refuse r).write = s.write := rfl
@[simp] theorem State.refuse_calls (s : State) (r : RefuseReason) : (s.refuse r).calls = s.calls := rfl
@[simp] theorem State.refuse_events (s : State) (r : RefuseReason) : (s.refuse r).events = s.events := rfl
@[simp] theorem State.refuse_draws (s : State) (r : RefuseReason) : (s.refuse r).draws = s.draws := rfl
@[simp] theorem State.refuse_drawCount (s : State) (r : RefuseReason) : (s.refuse r).drawCount = s.drawCount := rfl
@[simp] theorem State.refuse_sent (s : State) (r : RefuseReason) : (s.refuse r).sent = s.sent := rfl
@[simp] theorem State.refuse_results (s : State) (r : RefuseReason) : (s.refuse r).results = s.results := rfl
@[simp] theorem State.refuse_log (s : State) (r : RefuseReason) : (s.refuse r).log = s.log := rfl

/-! ### State.acquire -/

@[simp] theorem State.acquire_cfg (s : State) : (s.acquire).cfg = s.cfg := rfl
@[simp] theorem State.acquire_linkState (s : State) : (s.acquire).linkState = s.linkState := rfl
@[simp] theorem State.acquire_rx (s : State) : (s.acquire).rx = s.rx := rfl
@[simp] theorem State.acquire_lock (s : State) : (s.acquire).lock = .held := rfl
@[simp] theorem State.acquire_downloadActive (s : State) : (s.acquire).downloadActive = s.downloadActive := rfl
@[simp] theorem State.acquire_transportOpen (s : State) : (s.acquire).transportOpen = s.transportOpen := rfl
@[simp] theorem State.acquire_refused (s : State) : (s.acquire).refused = s.refused := rfl
@[simp] theorem State.acquire_seq (s : State) : (s.acquire).seq = s.seq := rfl
@[simp] theorem State.acquire_ctr (s : State) : (s.acquire).ctr = s.ctr := rfl
@[simp] theorem State.acquire_cur (s : State) : (s.acquire).cur = s.cur := rfl
@[simp] theorem State.acquire_txbuf (s : State) : (s.acquire).txbuf = s.txbuf := rfl
@[simp] theorem State.acquire_lastTx (s : State) : (s.acquire).lastTx = s.lastTx := rfl
@[simp] theorem State.acquire_deadline (s : State) : (s.acquire).deadline = s.deadline := rfl
@[simp] theorem State.acquire_now (s : State) : (s.acquire).now = s.now := rfl
@[simp] theorem State.acquire_write (s : State) : (s.acquire).write = s.write := rfl
@[simp] theorem State.acquire_calls (s : State) : (s.acquire).calls = s.calls := rfl
@[simp] theorem State.acquire_events (s : State) : (s.acquire).events = s.events := rfl
@[simp] theorem State.acquire_draws (s : State) : (s.acquire).draws = s.draws := rfl
@[simp] theorem State.acquire_drawCount (s : State) : (s.acquire).drawCount = s.drawCount := rfl
@[simp] theorem State.acquire_sent (s : State) : (s.acquire).sent = s.sent := rfl
@[simp] theorem State.acquire_results (s : State) : (s.acquire).results = s.results := rfl
@[simp] theorem State.acquire_log (s : State) : (s.acquire).log = s.log := rfl

/-! ### State.release -/

@[simp] theorem State.release_cfg (s : State) : (s.release).cfg = s.cfg := rfl
@[simp] theorem State.release_linkState (s : State) : (s.release).linkState = s.linkState := rfl
@[simp] theorem State.release_rx (s : State) : (s.release).rx = s.rx := rfl
@[simp] theorem State.release_lock (s : State) : (s.release).lock = .free := rfl
@[simp] theorem State.release_downloadActive (s : State) : (s.release).downloadActive = s.downloadActive := rfl
@[simp] theorem State.release_transportOpen (s : State) : (s.release).transportOpen = s.transportOpen := rfl
@[simp] theorem State.release_refused (s : State) : (s.release).refused = s.refused := rfl
@[simp] theorem State.release_seq (s : State) : (s.release).seq = s.seq := rfl
@[simp] theorem State.release_ctr (s : State) : (s.release).ctr = s.ctr := rfl
@[simp] theorem State.release_cur (s : State) : (s.release).cur = s.cur := rfl
@[simp] theorem State.release_txbuf (s : State) : (s.release).txbuf = s.txbuf := rfl
@[simp] theorem State.release_lastTx (s : State) : (s.release).lastTx = s.lastTx := rfl
@[simp] theorem State.release_deadline (s : State) : (s.release).deadline = s.deadline := rfl
@[simp] theorem State.release_now (s : State) : (s.release).now = s.now := rfl
@[simp] theorem State.release_write (s : State) : (s.release).write = s.write := rfl
@[simp] theorem State.release_calls (s : State) : (s.release).calls = s.calls := rfl
@[simp] theorem State.release_events (s : State) : (s.release).events = s.events := rfl
@[simp] theorem State.release_draws (s : State) : (s.release).draws = s.draws := rfl
@[simp] theorem State.release_drawCount (s : State) : (s.release).drawCount = s.drawCount := rfl
@[simp] theorem State.release_sent (s : State) : (s.release).sent = s.sent := rfl
@[simp] theorem State.release_results (s : State) : (s.release).results = s.results := rfl
@[simp] theorem State.release_log (s : State) : (s.release).log = s.log := rfl

/-! ### State.setSeq -/

@[simp] theorem State.setSeq_cfg (s : State) (a : Addr) (v : Bool) : (s.setSeq a v).cfg = s.cfg := rfl
@[simp] theorem State.setSeq_linkState (s : State) (a : Addr) (v : Bool) : (s.setSeq a v).linkState = s.linkState := rfl
@[simp] theorem State.setSeq_rx (s : State) (a : Addr) (v : Bool) : (s.setSeq a v).rx = s.rx := rfl
@[simp] theorem State.setSeq_lock (s : State) (a : Addr) (v : Bool) : (s.setSeq a v).lock = s.lock := rfl
@[simp] theorem State.setSeq_downloadActive (s : State) (a : Addr) (v : Bool) : (s.setSeq a v).downloadActive = s.downloadActive := rfl
@[simp] theorem State.setSeq_transportOpen (s : State) (a : Addr) (v : Bool) : (s.setSeq a v).transportOpen = s.transportOpen := rfl
@[simp] theorem State.setSeq_refused (s : State) (a : Addr) (v : Bool) : (s.setSeq a v).refused = s.refused := rfl
@[simp] theorem State.setSeq_seq (s : State) (a : Addr) (v : Bool) : (s.setSeq a v).seq = s.seq.set (slot a) v := rfl
@[simp] theorem State.setSeq_ctr (s : State) (a : Addr) (v : Bool) : (s.setSeq a v).ctr = s.ctr := rfl
@[simp] theorem State.setSeq_cur (s : State) (a : Addr) (v : Bool) : (s.setSeq a v).cur = s.cur := rfl
@[simp] theorem State.setSeq_txbuf (s : State) (a : Addr) (v : Bool) : (s.setSeq a v).txbuf = s.txbuf := rfl
@[simp] theorem State.setSeq_lastTx (s : State) (a : Addr) (v : Bool) : (s.setSeq a v).lastTx = s.lastTx := rfl
@[simp] theorem State.setSeq_deadline (s : State) (a : Addr) (v : Bool) : (s.setSeq a v).deadline = s.deadline := rfl
@[simp] theorem State.setSeq_now (s : State) (a : Addr) (v : Bool) : (s.setSeq a v).now = s.now := rfl
@[simp] theorem State.setSeq_write (s : State) (a : Addr) (v : Bool) : (s.setSeq a v).write = s.write := rfl
@[simp] theorem State.setSeq_calls (s : State) (a : Addr) (v : Bool) : (s.setSeq a v).calls = s.calls := rfl
@[simp] theorem State.setSeq_events (s : State) (a : Addr) (v : Bool) : (s.setSeq a v).events = s.events := rfl
@[simp] theorem State.setSeq_draws (s : State) (a : Addr) (v : Bool) : (s.setSeq a v).draws = s.draws := rfl
@[simp] theorem State.setSeq_drawCount (s : State) (a : Addr) (v : Bool) : (s.setSeq a v).drawCount = s.drawCount := rfl
@[simp] theorem State.setSeq_sent (s : State) (a : Addr) (v : Bool) : (s.setSeq a v).sent = s.sent := rfl
@[simp] theorem State.setSeq_results (s : State) (a : Addr) (v : Bool) : (s.setSeq a v).results = s.results := rfl
@[simp] theorem State.setSeq_log (s : State) (a : Addr) (v : Bool) : (s.setSeq a v).log = s.log := rfl

/-! ### State.setCtr -/

@[simp] theorem State.setCtr_cfg (s : State) (a : Addr) (v : Word32) : (s.setCtr a v).cfg = s.cfg := rfl
@[simp] theorem State.setCtr_linkState (s : State) (a : Addr) (v : Word32) : (s.setCtr a v).linkState = s.linkState := rfl
@[simp] theorem State.setCtr_rx (s : State) (a : Addr) (v : Word32) : (s.setCtr a v).rx = s.rx := rfl
@[simp] theorem State.setCtr_lock (s : State) (a : Addr) (v : Word32) : (s.setCtr a v).lock = s.lock := rfl
@[simp] theorem State.setCtr_downloadActive (s : State) (a : Addr) (v : Word32) : (s.setCtr a v).downloadActive = s.downloadActive := rfl
@[simp] theorem State.setCtr_transportOpen (s : State) (a : Addr) (v : Word32) : (s.setCtr a v).transportOpen = s.transportOpen := rfl
@[simp] theorem State.setCtr_refused (s : State) (a : Addr) (v : Word32) : (s.setCtr a v).refused = s.refused := rfl
@[simp] theorem State.setCtr_seq (s : State) (a : Addr) (v : Word32) : (s.setCtr a v).seq = s.seq := rfl
@[simp] theorem State.setCtr_ctr (s : State) (a : Addr) (v : Word32) : (s.setCtr a v).ctr = s.ctr.set (slot a) v := rfl
@[simp] theorem State.setCtr_cur (s : State) (a : Addr) (v : Word32) : (s.setCtr a v).cur = s.cur := rfl
@[simp] theorem State.setCtr_txbuf (s : State) (a : Addr) (v : Word32) : (s.setCtr a v).txbuf = s.txbuf := rfl
@[simp] theorem State.setCtr_lastTx (s : State) (a : Addr) (v : Word32) : (s.setCtr a v).lastTx = s.lastTx := rfl
@[simp] theorem State.setCtr_deadline (s : State) (a : Addr) (v : Word32) : (s.setCtr a v).deadline = s.deadline := rfl
@[simp] theorem State.setCtr_now (s : State) (a : Addr) (v : Word32) : (s.setCtr a v).now = s.now := rfl
@[simp] theorem State.setCtr_write (s : State) (a : Addr) (v : Word32) : (s.setCtr a v).write = s.write := rfl
@[simp] theorem State.setCtr_calls (s : State) (a : Addr) (v : Word32) : (s.setCtr a v).calls = s.calls := rfl
@[simp] theorem State.setCtr_events (s : State) (a : Addr) (v : Word32) : (s.setCtr a v).events = s.events := rfl
@[simp] theorem State.setCtr_draws (s : State) (a : Addr) (v : Word32) : (s.setCtr a v).draws = s.draws := rfl
@[simp] theorem State.setCtr_drawCount (s : State) (a : Addr) (v : Word32) : (s.setCtr a v).drawCount = s.drawCount := rfl
@[simp] theorem State.setCtr_sent (s : State) (a : Addr) (v : Word32) : (s.setCtr a v).sent = s.sent := rfl
@[simp] theorem State.setCtr_results (s : State) (a : Addr) (v : Word32) : (s.setCtr a v).results = s.results := rfl
@[simp] theorem State.setCtr_log (s : State) (a : Addr) (v : Word32) : (s.setCtr a v).log = s.log := rfl

/-! ### State.emit -/

@[simp] theorem State.emit_cfg (s : State) (r : Result) : (s.emit r).cfg = s.cfg := rfl
@[simp] theorem State.emit_linkState (s : State) (r : Result) : (s.emit r).linkState = s.linkState := rfl
@[simp] theorem State.emit_rx (s : State) (r : Result) : (s.emit r).rx = s.rx := rfl
@[simp] theorem State.emit_lock (s : State) (r : Result) : (s.emit r).lock = s.lock := rfl
@[simp] theorem State.emit_downloadActive (s : State) (r : Result) : (s.emit r).downloadActive = s.downloadActive := rfl
@[simp] theorem State.emit_transportOpen (s : State) (r : Result) : (s.emit r).transportOpen = s.transportOpen := rfl
@[simp] theorem State.emit_refused (s : State) (r : Result) : (s.emit r).refused = s.refused := rfl
@[simp] theorem State.emit_seq (s : State) (r : Result) : (s.emit r).seq = s.seq := rfl
@[simp] theorem State.emit_ctr (s : State) (r : Result) : (s.emit r).ctr = s.ctr := rfl
@[simp] theorem State.emit_cur (s : State) (r : Result) : (s.emit r).cur = s.cur := rfl
@[simp] theorem State.emit_txbuf (s : State) (r : Result) : (s.emit r).txbuf = s.txbuf := rfl
@[simp] theorem State.emit_lastTx (s : State) (r : Result) : (s.emit r).lastTx = s.lastTx := rfl
@[simp] theorem State.emit_deadline (s : State) (r : Result) : (s.emit r).deadline = s.deadline := rfl
@[simp] theorem State.emit_now (s : State) (r : Result) : (s.emit r).now = s.now := rfl
@[simp] theorem State.emit_write (s : State) (r : Result) : (s.emit r).write = s.write := rfl
@[simp] theorem State.emit_calls (s : State) (r : Result) : (s.emit r).calls = s.calls := rfl
@[simp] theorem State.emit_events (s : State) (r : Result) : (s.emit r).events = s.events := rfl
@[simp] theorem State.emit_draws (s : State) (r : Result) : (s.emit r).draws = s.draws := rfl
@[simp] theorem State.emit_drawCount (s : State) (r : Result) : (s.emit r).drawCount = s.drawCount := rfl
@[simp] theorem State.emit_sent (s : State) (r : Result) : (s.emit r).sent = s.sent := rfl
@[simp] theorem State.emit_results (s : State) (r : Result) : (s.emit r).results = s.results ++ [r] := rfl
@[simp] theorem State.emit_log (s : State) (r : Result) : (s.emit r).log = s.log := rfl

/-! ### State.tx -/

@[simp] theorem State.tx_cfg (s : State) (f : List Byte) : (s.tx f).cfg = s.cfg := rfl
@[simp] theorem State.tx_linkState (s : State) (f : List Byte) : (s.tx f).linkState = s.linkState := rfl
@[simp] theorem State.tx_rx (s : State) (f : List Byte) : (s.tx f).rx = s.rx := rfl
@[simp] theorem State.tx_lock (s : State) (f : List Byte) : (s.tx f).lock = s.lock := rfl
@[simp] theorem State.tx_downloadActive (s : State) (f : List Byte) : (s.tx f).downloadActive = s.downloadActive := rfl
@[simp] theorem State.tx_transportOpen (s : State) (f : List Byte) : (s.tx f).transportOpen = s.transportOpen := rfl
@[simp] theorem State.tx_refused (s : State) (f : List Byte) : (s.tx f).refused = s.refused := rfl
@[simp] theorem State.tx_seq (s : State) (f : List Byte) : (s.tx f).seq = s.seq := rfl
@[simp] theorem State.tx_ctr (s : State) (f : List Byte) : (s.tx f).ctr = s.ctr := rfl
@[simp] theorem State.tx_cur (s : State) (f : List Byte) : (s.tx f).cur = s.cur := rfl
@[simp] theorem State.tx_txbuf (s : State) (f : List Byte) : (s.tx f).txbuf = s.txbuf := rfl
@[simp] theorem State.tx_lastTx (s : State) (f : List Byte) : (s.tx f).lastTx = s.lastTx := rfl
@[simp] theorem State.tx_deadline (s : State) (f : List Byte) : (s.tx f).deadline = s.deadline := rfl
@[simp] theorem State.tx_now (s : State) (f : List Byte) : (s.tx f).now = s.now := rfl
@[simp] theorem State.tx_write (s : State) (f : List Byte) : (s.tx f).write = s.write := rfl
@[simp] theorem State.tx_calls (s : State) (f : List Byte) : (s.tx f).calls = s.calls := rfl
@[simp] theorem State.tx_events (s : State) (f : List Byte) : (s.tx f).events = s.events := rfl
@[simp] theorem State.tx_draws (s : State) (f : List Byte) : (s.tx f).draws = s.draws := rfl
@[simp] theorem State.tx_drawCount (s : State) (f : List Byte) : (s.tx f).drawCount = s.drawCount := rfl
@[simp] theorem State.tx_sent (s : State) (f : List Byte) : (s.tx f).sent = s.sent ++ [f] := rfl
@[simp] theorem State.tx_results (s : State) (f : List Byte) : (s.tx f).results = s.results := rfl
@[simp] theorem State.tx_log (s : State) (f : List Byte) : (s.tx f).log = s.log := rfl

/-! ### State.setDownload -/

@[simp] theorem State.setDownload_cfg (s : State) (v : Bool) : (s.setDownload v).cfg = s.cfg := rfl
@[simp] theorem State.setDownload_linkState (s : State) (v : Bool) : (s.setDownload v).linkState = s.linkState := rfl
@[simp] theorem State.setDownload_rx (s : State) (v : Bool) : (s.setDownload v).rx = s.rx := rfl
@[simp] theorem State.setDownload_lock (s : State) (v : Bool) : (s.setDownload v).lock = s.lock := rfl
@[simp] theorem State.setDownload_downloadActive (s : State) (v : Bool) : (s.setDownload v).downloadActive = v := rfl
@[simp] theorem State.setDownload_transportOpen (s : State) (v : Bool) : (s.setDownload v).transportOpen = s.transportOpen := rfl
@[simp] theorem State.setDownload_refused (s : State) (v : Bool) : (s.setDownload v).refused = s.refused := rfl
@[simp] theorem State.setDownload_seq (s : State) (v : Bool) : (s.setDownload v).seq = s.seq := rfl
@[simp] theorem State.setDownload_ctr (s : State) (v : Bool) : (s.setDownload v).ctr = s.ctr := rfl
@[simp] theorem State.setDownload_cur (s : State) (v : Bool) : (s.setDownload v).cur = s.cur := rfl
@[simp] theorem State.setDownload_txbuf (s : State) (v : Bool) : (s.setDownload v).txbuf = s.txbuf := rfl
@[simp] theorem State.setDownload_lastTx (s : State) (v : Bool) : (s.setDownload v).lastTx = s.lastTx := rfl
@[simp] theorem State.setDownload_deadline (s : State) (v : Bool) : (s.setDownload v).deadline = s.deadline := rfl
@[simp] theorem State.setDownload_now (s : State) (v : Bool) : (s.setDownload v).now = s.now := rfl
@[simp] theorem State.setDownload_write (s : State) (v : Bool) : (s.setDownload v).write = s.write := rfl
@[simp] theorem State.setDownload_calls (s : State) (v : Bool) : (s.setDownload v).calls = s.calls := rfl
@[simp] theorem State.setDownload_events (s : State) (v : Bool) : (s.setDownload v).events = s.events := rfl
@[simp] theorem State.setDownload_draws (s : State) (v : Bool) : (s.setDownload v).draws = s.draws := rfl
@[simp] theorem State.setDownload_drawCount (s : State) (v : Bool) : (s.setDownload v).drawCount = s.drawCount := rfl
@[simp] theorem State.setDownload_sent (s : State) (v : Bool) : (s.setDownload v).sent = s.sent := rfl
@[simp] theorem State.setDownload_results (s : State) (v : Bool) : (s.setDownload v).results = s.results := rfl
@[simp] theorem State.setDownload_log (s : State) (v : Bool) : (s.setDownload v).log = s.log := rfl

/-! ### State.openTransport -/

@[simp] theorem State.openTransport_cfg (s : State) : (s.openTransport).cfg = s.cfg := rfl
@[simp] theorem State.openTransport_linkState (s : State) : (s.openTransport).linkState = s.linkState := rfl
@[simp] theorem State.openTransport_rx (s : State) : (s.openTransport).rx = s.rx := rfl
@[simp] theorem State.openTransport_lock (s : State) : (s.openTransport).lock = s.lock := rfl
@[simp] theorem State.openTransport_downloadActive (s : State) : (s.openTransport).downloadActive = s.downloadActive := rfl
@[simp] theorem State.openTransport_transportOpen (s : State) : (s.openTransport).transportOpen = true := rfl
@[simp] theorem State.openTransport_refused (s : State) : (s.openTransport).refused = s.refused := rfl
@[simp] theorem State.openTransport_seq (s : State) : (s.openTransport).seq = s.seq := rfl
@[simp] theorem State.openTransport_ctr (s : State) : (s.openTransport).ctr = s.ctr := rfl
@[simp] theorem State.openTransport_cur (s : State) : (s.openTransport).cur = s.cur := rfl
@[simp] theorem State.openTransport_txbuf (s : State) : (s.openTransport).txbuf = s.txbuf := rfl
@[simp] theorem State.openTransport_lastTx (s : State) : (s.openTransport).lastTx = s.lastTx := rfl
@[simp] theorem State.openTransport_deadline (s : State) : (s.openTransport).deadline = s.deadline := rfl
@[simp] theorem State.openTransport_now (s : State) : (s.openTransport).now = s.now := rfl
@[simp] theorem State.openTransport_write (s : State) : (s.openTransport).write = s.write := rfl
@[simp] theorem State.openTransport_calls (s : State) : (s.openTransport).calls = s.calls := rfl
@[simp] theorem State.openTransport_events (s : State) : (s.openTransport).events = s.events := rfl
@[simp] theorem State.openTransport_draws (s : State) : (s.openTransport).draws = s.draws := rfl
@[simp] theorem State.openTransport_drawCount (s : State) : (s.openTransport).drawCount = s.drawCount := rfl
@[simp] theorem State.openTransport_sent (s : State) : (s.openTransport).sent = s.sent := rfl
@[simp] theorem State.openTransport_results (s : State) : (s.openTransport).results = s.results := rfl
@[simp] theorem State.openTransport_log (s : State) : (s.openTransport).log = s.log := rfl

/-! ### State.closeTransport -/

@[simp] theorem State.closeTransport_cfg (s : State) : (s.closeTransport).cfg = s.cfg := rfl
@[simp] theorem State.closeTransport_linkState (s : State) : (s.closeTransport).linkState = s.linkState := rfl
@[simp] theorem State.closeTransport_rx (s : State) : (s.closeTransport).rx = s.rx := rfl
@[simp] theorem State.closeTransport_lock (s : State) : (s.closeTransport).lock = s.lock := rfl
@[simp] theorem State.closeTransport_downloadActive (s : State) : (s.closeTransport).downloadActive = s.downloadActive := rfl
@[simp] theorem State.closeTransport_transportOpen (s : State) : (s.closeTransport).transportOpen = false := rfl
@[simp] theorem State.closeTransport_refused (s : State) : (s.closeTransport).refused = s.refused := rfl
@[simp] theorem State.closeTransport_seq (s : State) : (s.closeTransport).seq = s.seq := rfl
@[simp] theorem State.closeTransport_ctr (s : State) : (s.closeTransport).ctr = s.ctr := rfl
@[simp] theorem State.closeTransport_cur (s : State) : (s.closeTransport).cur = s.cur := rfl
@[simp] theorem State.closeTransport_txbuf (s : State) : (s.closeTransport).txbuf = s.txbuf := rfl
@[simp] theorem State.closeTransport_lastTx (s : State) : (s.closeTransport).lastTx = s.lastTx := rfl
@[simp] theorem State.closeTransport_deadline (s : State) : (s.closeTransport).deadline = s.deadline := rfl
@[simp] theorem State.closeTransport_now (s : State) : (s.closeTransport).now = s.now := rfl
@[simp] theorem State.closeTransport_write (s : State) : (s.closeTransport).write = s.write.doom := rfl
@[simp] theorem State.closeTransport_calls (s : State) : (s.closeTransport).calls = s.calls := rfl
@[simp] theorem State.closeTransport_events (s : State) : (s.closeTransport).events = s.events := rfl
@[simp] theorem State.closeTransport_draws (s : State) : (s.closeTransport).draws = s.draws := rfl
@[simp] theorem State.closeTransport_drawCount (s : State) : (s.closeTransport).drawCount = s.drawCount := rfl
@[simp] theorem State.closeTransport_sent (s : State) : (s.closeTransport).sent = s.sent := rfl
@[simp] theorem State.closeTransport_results (s : State) : (s.closeTransport).results = s.results := rfl
@[simp] theorem State.closeTransport_log (s : State) : (s.closeTransport).log = s.log := rfl

/-! ### State.rxReset -/

@[simp] theorem State.rxReset_cfg (s : State) (a : Addr) : (s.rxReset a).cfg = s.cfg := rfl
@[simp] theorem State.rxReset_linkState (s : State) (a : Addr) : (s.rxReset a).linkState = s.linkState := rfl
@[simp] theorem State.rxReset_rx (s : State) (a : Addr) : (s.rxReset a).rx = Deframer.rxReset a := rfl
@[simp] theorem State.rxReset_lock (s : State) (a : Addr) : (s.rxReset a).lock = s.lock := rfl
@[simp] theorem State.rxReset_downloadActive (s : State) (a : Addr) : (s.rxReset a).downloadActive = s.downloadActive := rfl
@[simp] theorem State.rxReset_transportOpen (s : State) (a : Addr) : (s.rxReset a).transportOpen = s.transportOpen := rfl
@[simp] theorem State.rxReset_refused (s : State) (a : Addr) : (s.rxReset a).refused = s.refused := rfl
@[simp] theorem State.rxReset_seq (s : State) (a : Addr) : (s.rxReset a).seq = s.seq := rfl
@[simp] theorem State.rxReset_ctr (s : State) (a : Addr) : (s.rxReset a).ctr = s.ctr := rfl
@[simp] theorem State.rxReset_cur (s : State) (a : Addr) : (s.rxReset a).cur = s.cur := rfl
@[simp] theorem State.rxReset_txbuf (s : State) (a : Addr) : (s.rxReset a).txbuf = s.txbuf := rfl
@[simp] theorem State.rxReset_lastTx (s : State) (a : Addr) : (s.rxReset a).lastTx = s.lastTx := rfl
@[simp] theorem State.rxReset_deadline (s : State) (a : Addr) : (s.rxReset a).deadline = s.deadline := rfl
@[simp] theorem State.rxReset_now (s : State) (a : Addr) : (s.rxReset a).now = s.now := rfl
@[simp] theorem State.rxReset_write (s : State) (a : Addr) : (s.rxReset a).write = s.write := rfl
@[simp] theorem State.rxReset_calls (s : State) (a : Addr) : (s.rxReset a).calls = s.calls := rfl
@[simp] theorem State.rxReset_events (s : State) (a : Addr) : (s.rxReset a).events = s.events := rfl
@[simp] theorem State.rxReset_draws (s : State) (a : Addr) : (s.rxReset a).draws = s.draws := rfl
@[simp] theorem State.rxReset_drawCount (s : State) (a : Addr) : (s.rxReset a).drawCount = s.drawCount := rfl
@[simp] theorem State.rxReset_sent (s : State) (a : Addr) : (s.rxReset a).sent = s.sent := rfl
@[simp] theorem State.rxReset_results (s : State) (a : Addr) : (s.rxReset a).results = s.results := rfl
@[simp] theorem State.rxReset_log (s : State) (a : Addr) : (s.rxReset a).log = s.log := rfl

/-! ### State.conclude -/

@[simp] theorem State.conclude_cfg (s : State) (st : Status) : (s.conclude st).cfg = s.cfg := rfl
@[simp] theorem State.conclude_linkState (s : State) (st : Status) : (s.conclude st).linkState = endState st := rfl
@[simp] theorem State.conclude_rx (s : State) (st : Status) : (s.conclude st).rx = s.rx := rfl
@[simp] theorem State.conclude_lock (s : State) (st : Status) : (s.conclude st).lock = s.lock := rfl
@[simp] theorem State.conclude_downloadActive (s : State) (st : Status) : (s.conclude st).downloadActive = s.downloadActive := rfl
@[simp] theorem State.conclude_transportOpen (s : State) (st : Status) : (s.conclude st).transportOpen = s.transportOpen := rfl
@[simp] theorem State.conclude_refused (s : State) (st : Status) : (s.conclude st).refused = s.refused := rfl
@[simp] theorem State.conclude_seq (s : State) (st : Status) : (s.conclude st).seq = s.seq := rfl
@[simp] theorem State.conclude_ctr (s : State) (st : Status) : (s.conclude st).ctr = s.ctr := rfl
@[simp] theorem State.conclude_cur (s : State) (st : Status) : (s.conclude st).cur = none := rfl
@[simp] theorem State.conclude_txbuf (s : State) (st : Status) : (s.conclude st).txbuf = s.txbuf := rfl
@[simp] theorem State.conclude_lastTx (s : State) (st : Status) : (s.conclude st).lastTx = s.lastTx := rfl
@[simp] theorem State.conclude_deadline (s : State) (st : Status) : (s.conclude st).deadline = none := rfl
@[simp] theorem State.conclude_now (s : State) (st : Status) : (s.conclude st).now = s.now := rfl
@[simp] theorem State.conclude_write (s : State) (st : Status) : (s.conclude st).write = .none := rfl
@[simp] theorem State.conclude_calls (s : State) (st : Status) : (s.conclude st).calls = s.calls := rfl
@[simp] theorem State.conclude_events (s : State) (st : Status) : (s.conclude st).events = s.events := rfl
@[simp] theorem State.conclude_draws (s : State) (st : Status) : (s.conclude st).draws = s.draws := rfl
@[simp] theorem State.conclude_drawCount (s : State) (st : Status) : (s.conclude st).drawCount = s.drawCount := rfl
@[simp] theorem State.conclude_sent (s : State) (st : Status) : (s.conclude st).sent = s.sent := rfl
@[simp] theorem State.conclude_results (s : State) (st : Status) : (s.conclude st).results = s.results := rfl
@[simp] theorem State.conclude_log (s : State) (st : Status) : (s.conclude st).log = s.log := rfl

/-! ### State.toIdle -/

@[simp] theorem State.toIdle_cfg (s : State) : (s.toIdle).cfg = s.cfg := rfl
@[simp] theorem State.toIdle_linkState (s : State) : (s.toIdle).linkState = .idle := rfl
@[simp] theorem State.toIdle_rx (s : State) : (s.toIdle).rx = s.rx := rfl
@[simp] theorem State.toIdle_lock (s : State) : (s.toIdle).lock = .free := rfl
@[simp] theorem State.toIdle_downloadActive (s : State) : (s.toIdle).downloadActive = s.downloadActive := rfl
@[simp] theorem State.toIdle_transportOpen (s : State) : (s.toIdle).transportOpen = s.transportOpen := rfl
@[simp] theorem State.toIdle_refused (s : State) : (s.toIdle).refused = s.refused := rfl
@[simp] theorem State.toIdle_seq (s : State) : (s.toIdle).seq = s.seq := rfl
@[simp] theorem State.toIdle_ctr (s : State) : (s.toIdle).ctr = s.ctr := rfl
@[simp] theorem State.toIdle_cur (s : State) : (s.toIdle).cur = s.cur := rfl
@[simp] theorem State.toIdle_txbuf (s : State) : (s.toIdle).txbuf = s.txbuf := rfl
@[simp] theorem State.toIdle_lastTx (s : State) : (s.toIdle).lastTx = s.lastTx := rfl
@[simp] theorem State.toIdle_deadline (s : State) : (s.toIdle).deadline = s.deadline := rfl
@[simp] theorem State.toIdle_now (s : State) : (s.toIdle).now = s.now := rfl
@[simp] theorem State.toIdle_write (s : State) : (s.toIdle).write = s.write := rfl
@[simp] theorem State.toIdle_calls (s : State) : (s.toIdle).calls = s.calls := rfl
@[simp] theorem State.toIdle_events (s : State) : (s.toIdle).events = s.events := rfl
@[simp] theorem State.toIdle_draws (s : State) : (s.toIdle).draws = s.draws := rfl
@[simp] theorem State.toIdle_drawCount (s : State) : (s.toIdle).drawCount = s.drawCount := rfl
@[simp] theorem State.toIdle_sent (s : State) : (s.toIdle).sent = s.sent := rfl
@[simp] theorem State.toIdle_results (s : State) : (s.toIdle).results = s.results := rfl
@[simp] theorem State.toIdle_log (s : State) : (s.toIdle).log = s.log := rfl

/-! ### State.setRxEnc -/

@[simp] theorem State.setRxEnc_cfg (s : State) (x : Exchange) (v : Bool) : (s.setRxEnc x v).cfg = s.cfg := rfl
@[simp] theorem State.setRxEnc_linkState (s : State) (x : Exchange) (v : Bool) : (s.setRxEnc x v).linkState = s.linkState := rfl
@[simp] theorem State.setRxEnc_rx (s : State) (x : Exchange) (v : Bool) : (s.setRxEnc x v).rx = s.rx := rfl
@[simp] theorem State.setRxEnc_lock (s : State) (x : Exchange) (v : Bool) : (s.setRxEnc x v).lock = s.lock := rfl
@[simp] theorem State.setRxEnc_downloadActive (s : State) (x : Exchange) (v : Bool) : (s.setRxEnc x v).downloadActive = s.downloadActive := rfl
@[simp] theorem State.setRxEnc_transportOpen (s : State) (x : Exchange) (v : Bool) : (s.setRxEnc x v).transportOpen = s.transportOpen := rfl
@[simp] theorem State.setRxEnc_refused (s : State) (x : Exchange) (v : Bool) : (s.setRxEnc x v).refused = s.refused := rfl
@[simp] theorem State.setRxEnc_seq (s : State) (x : Exchange) (v : Bool) : (s.setRxEnc x v).seq = s.seq := rfl
@[simp] theorem State.setRxEnc_ctr (s : State) (x : Exchange) (v : Bool) : (s.setRxEnc x v).ctr = s.ctr := rfl
@[simp] theorem State.setRxEnc_cur (s : State) (x : Exchange) (v : Bool) : (s.setRxEnc x v).cur = some { x with rxEnc := some v } := rfl
@[simp] theorem State.setRxEnc_txbuf (s : State) (x : Exchange) (v : Bool) : (s.setRxEnc x v).txbuf = s.txbuf := rfl
@[simp] theorem State.setRxEnc_lastTx (s : State) (x : Exchange) (v : Bool) : (s.setRxEnc x v).lastTx = s.lastTx := rfl
@[simp] theorem State.setRxEnc_deadline (s : State) (x : Exchange) (v : Bool) : (s.setRxEnc x v).deadline = s.deadline := rfl
@[simp] theorem State.setRxEnc_now (s : State) (x : Exchange) (v : Bool) : (s.setRxEnc x v).now = s.now := rfl
@[simp] theorem State.setRxEnc_write (s : State) (x : Exchange) (v : Bool) : (s.setRxEnc x v).write = s.write := rfl
@[simp] theorem State.setRxEnc_calls (s : State) (x : Exchange) (v : Bool) : (s.setRxEnc x v).calls = s.calls := rfl
@[simp] theorem State.setRxEnc_events (s : State) (x : Exchange) (v : Bool) : (s.setRxEnc x v).events = s.events := rfl
@[simp] theorem State.setRxEnc_draws (s : State) (x : Exchange) (v : Bool) : (s.setRxEnc x v).draws = s.draws := rfl
@[simp] theorem State.setRxEnc_drawCount (s : State) (x : Exchange) (v : Bool) : (s.setRxEnc x v).drawCount = s.drawCount := rfl
@[simp] theorem State.setRxEnc_sent (s : State) (x : Exchange) (v : Bool) : (s.setRxEnc x v).sent = s.sent := rfl
@[simp] theorem State.setRxEnc_results (s : State) (x : Exchange) (v : Bool) : (s.setRxEnc x v).results = s.results := rfl
@[simp] theorem State.setRxEnc_log (s : State) (x : Exchange) (v : Bool) : (s.setRxEnc x v).log = s.log := rfl

/-! ### State.setCall -/

@[simp] theorem State.setCall_cfg (s : State) (i : Nat) (c : Call) : (s.setCall i c).cfg = s.cfg := rfl
@[simp] theorem State.setCall_linkState (s : State) (i : Nat) (c : Call) : (s.setCall i c).linkState = s.linkState := rfl
@[simp] theorem State.setCall_rx (s : State) (i : Nat) (c : Call) : (s.setCall i c).rx = s.rx := rfl
@[simp] theorem State.setCall_lock (s : State) (i : Nat) (c : Call) : (s.setCall i c).lock = s.lock := rfl
@[simp] theorem State.setCall_downloadActive (s : State) (i : Nat) (c : Call) : (s.setCall i c).downloadActive = s.downloadActive := rfl
@[simp] theorem State.setCall_transportOpen (s : State) (i : Nat) (c : Call) : (s.setCall i c).transportOpen = s.transportOpen := rfl
@[simp] theorem State.setCall_refused (s : State) (i : Nat) (c : Call) : (s.setCall i c).refused = s.refused := rfl
@[simp] theorem State.setCall_seq (s : State) (i : Nat) (c : Call) : (s.setCall i c).seq = s.seq := rfl
@[simp] theorem State.setCall_ctr (s : State) (i : Nat) (c : Call) : (s.setCall i c).ctr = s.ctr := rfl
@[simp] theorem State.setCall_cur (s : State) (i : Nat) (c : Call) : (s.setCall i c).cur = s.cur := rfl
@[simp] theorem State.setCall_txbuf (s : State) (i : Nat) (c : Call) : (s.setCall i c).txbuf = s.txbuf := rfl
@[simp] theorem State.setCall_lastTx (s : State) (i : Nat) (c : Call) : (s.setCall i c).lastTx = s.lastTx := rfl
@[simp] theorem State.setCall_deadline (s : State) (i : Nat) (c : Call) : (s.setCall i c).deadline = s.deadline := rfl
@[simp] theorem State.setCall_now (s : State) (i : Nat) (c : Call) : (s.setCall i c).now = s.now := rfl
@[simp] theorem State.setCall_write (s : State) (i : Nat) (c : Call) : (s.setCall i c).write = s.write := rfl
@[simp] theorem State.setCall_calls (s : State) (i : Nat) (c : Call) : (s.setCall i c).calls = s.calls.set i c := rfl
@[simp] theorem State.setCall_events (s : State) (i : Nat) (c : Call) : (s.setCall i c).events = s.events := rfl
@[simp] theorem State.setCall_draws (s : State) (i : Nat) (c : Call) : (s.setCall i c).draws = s.draws := rfl
@[simp] theorem State.setCall_drawCount (s : State) (i : Nat) (c : Call) : (s.setCall i c).drawCount = s.drawCount := rfl
@[simp] theorem State.setCall_sent (s : State) (i : Nat) (c : Call) : (s.setCall i c).sent = s.sent := rfl
@[simp] theorem State.setCall_results (s : State) (i : Nat) (c : Call) : (s.setCall i c).results = s.results := rfl
@[simp] theorem State.setCall_log (s : State) (i : Nat) (c : Call) : (s.setCall i c).log = s.log := rfl

/-! ### State.dropCall -/

@[simp] theorem State.dropCall_cfg (s : State) (i : Nat) : (s.dropCall i).cfg = s.cfg := rfl
@[simp] theorem State.dropCall_linkState (s : State) (i : Nat) : (s.dropCall i).linkState = s.linkState := rfl
@[simp] theorem State.dropCall_rx (s : State) (i : Nat) : (s.dropCall i).rx = s.rx := rfl
@[simp] theorem State.dropCall_lock (s : State) (i : Nat) : (s.dropCall i).lock = s.lock := rfl
@[simp] theorem State.dropCall_downloadActive (s : State) (i : Nat) : (s.dropCall i).downloadActive = s.downloadActive := rfl
@[simp] theorem State.dropCall_transportOpen (s : State) (i : Nat) : (s.dropCall i).transportOpen = s.transportOpen := rfl
@[simp] theorem State.dropCall_refused (s : State) (i : Nat) : (s.dropCall i).refused = s.refused := rfl
@[simp] theorem State.dropCall_seq (s : State) (i : Nat) : (s.dropCall i).seq = s.seq := rfl
@[simp] theorem State.dropCall_ctr (s : State) (i : Nat) : (s.dropCall i).ctr = s.ctr := rfl
@[simp] theorem State.dropCall_cur (s : State) (i : Nat) : (s.dropCall i).cur = s.cur := rfl
@[simp] theorem State.dropCall_txbuf (s : State) (i : Nat) : (s.dropCall i).txbuf = s.txbuf := rfl
@[simp] theorem State.dropCall_lastTx (s : State) (i : Nat) : (s.dropCall i).lastTx = s.lastTx := rfl
@[simp] theorem State.dropCall_deadline (s : State) (i : Nat) : (s.dropCall i).deadline = s.deadline := rfl
@[simp] theorem State.dropCall_now (s : State) (i : Nat) : (s.dropCall i).now = s.now := rfl
@[simp] theorem State.dropCall_write (s : State) (i : Nat) : (s.dropCall i).write = s.write := rfl
@[simp] theorem State.dropCall_calls (s : State) (i : Nat) : (s.dropCall i).calls = s.calls.eraseIdx i := rfl
@[simp] theorem State.dropCall_events (s : State) (i : Nat) : (s.dropCall i).events = s.events := rfl
@[simp] theorem State.dropCall_draws (s : State) (i : Nat) : (s.dropCall i).draws = s.draws := rfl
@[simp] theorem State.dropCall_drawCount (s : State) (i : Nat) : (s.dropCall i).drawCount = s.drawCount := rfl
@[simp] theorem State.dropCall_sent (s : State) (i : Nat) : (s.dropCall i).sent = s.sent := rfl
@[simp] theorem State.dropCall_results (s : State) (i : Nat) : (s.dropCall i).results = s.results := rfl
@[simp] theorem State.dropCall_log (s : State) (i : Nat) : (s.dropCall i).log = s.log := rfl

/-! ### State.issue -/

@[simp] theorem State.issue_cfg (s : State) (x : Exchange) : (s.issue x).cfg = s.cfg := rfl
@[simp] theorem State.issue_linkState (s : State) (x : Exchange) : (s.issue x).linkState = s.linkState := rfl
@[simp] theorem State.issue_rx (s : State) (x : Exchange) : (s.issue x).rx = Deframer.rxReset x.addr := rfl
@[simp] theorem State.issue_lock (s : State) (x : Exchange) : (s.issue x).lock = s.lock := rfl
@[simp] theorem State.issue_downloadActive (s : State) (x : Exchange) : (s.issue x).downloadActive = s.downloadActive := rfl
@[simp] theorem State.issue_transportOpen (s : State) (x : Exchange) : (s.issue x).transportOpen = s.transportOpen := rfl
@[simp] theorem State.issue_refused (s : State) (x : Exchange) : (s.issue x).refused = s.refused := rfl
@[simp] theorem State.issue_seq (s : State) (x : Exchange) : (s.issue x).seq = s.seq := rfl
@[simp] theorem State.issue_ctr (s : State) (x : Exchange) : (s.issue x).ctr = s.ctr := rfl
@[simp] theorem State.issue_cur (s : State) (x : Exchange) : (s.issue x).cur = s.cur := rfl
@[simp] theorem State.issue_txbuf (s : State) (x : Exchange) : (s.issue x).txbuf = s.txbuf := rfl
@[simp] theorem State.issue_lastTx (s : State) (x : Exchange) : (s.issue x).lastTx = some s.now := rfl
@[simp] theorem State.issue_deadline (s : State) (x : Exchange) : (s.issue x).deadline = some (s.now + x.timeout) := rfl
@[simp] theorem State.issue_now (s : State) (x : Exchange) : (s.issue x).now = s.now := rfl
@[simp] theorem State.issue_write (s : State) (x : Exchange) : (s.issue x).write = .pending (!s.transportOpen) := rfl
@[simp] theorem State.issue_calls (s : State) (x : Exchange) : (s.issue x).calls = s.calls := rfl
@[simp] theorem State.issue_events (s : State) (x : Exchange) : (s.issue x).events = s.events := rfl
@[simp] theorem State.issue_draws (s : State) (x : Exchange) : (s.issue x).draws = s.draws := rfl
@[simp] theorem State.issue_drawCount (s : State) (x : Exchange) : (s.issue x).drawCount = s.drawCount := rfl
@[simp] theorem State.issue_sent (s : State) (x : Exchange) : (s.issue x).sent = s.sent ++ [s.txbuf] := rfl
@[simp] theorem State.issue_results (s : State) (x : Exchange) : (s.issue x).results = s.results := rfl
@[simp] theorem State.issue_log (s : State) (x : Exchange) : (s.issue x).log = s.log := rfl

/-! ### State.resetCounter -/

@[simp] theorem State.resetCounter_cfg (s : State) (n : Negotiation) : (s.resetCounter n).cfg = s.cfg := rfl
@[simp] theorem State.resetCounter_linkState (s : State) (n : Negotiation) : (s.resetCounter n).linkState = s.linkState := rfl
@[simp] theorem State.resetCounter_rx (s : State) (n : Negotiation) : (s.resetCounter n).rx = s.rx := rfl
@[simp] theorem State.resetCounter_lock (s : State) (n : Negotiation) : (s.resetCounter n).lock = .free := rfl
@[simp] theorem State.resetCounter_downloadActive (s : State) (n : Negotiation) : (s.resetCounter n).downloadActive = s.downloadActive := rfl
@[simp] theorem State.resetCounter_transportOpen (s : State) (n : Negotiation) : (s.resetCounter n).transportOpen = s.transportOpen := rfl
@[simp] theorem State.resetCounter_refused (s : State) (n : Negotiation) : (s.resetCounter n).refused = s.refused := rfl
@[simp] theorem State.resetCounter_seq (s : State) (n : Negotiation) : (s.resetCounter n).seq = s.seq := rfl
@[simp] theorem State.resetCounter_ctr (s : State) (n : Negotiation) : (s.resetCounter n).ctr = s.ctr.set (slot (n.addr.setWidth 7)) 0 := rfl
@[simp] theorem State.resetCounter_cur (s : State) (n : Negotiation) : (s.resetCounter n).cur = s.cur := rfl
@[simp] theorem State.resetCounter_txbuf (s : State) (n : Negotiation) : (s.resetCounter n).txbuf = s.txbuf := rfl
@[simp] theorem State.resetCounter_lastTx (s : State) (n : Negotiation) : (s.resetCounter n).lastTx = s.lastTx := rfl
@[simp] theorem State.resetCounter_deadline (s : State) (n : Negotiation) : (s.resetCounter n).deadline = s.deadline := rfl
@[simp] theorem State.resetCounter_now (s : State) (n : Negotiation) : (s.resetCounter n).now = s.now := rfl
@[simp] theorem State.resetCounter_write (s : State) (n : Negotiation) : (s.resetCounter n).write = s.write := rfl
@[simp] theorem State.resetCounter_calls (s : State) (n : Negotiation) : (s.resetCounter n).calls = s.calls := rfl
@[simp] theorem State.resetCounter_events (s : State) (n : Negotiation) : (s.resetCounter n).events = s.events := rfl
@[simp] theorem State.resetCounter_draws (s : State) (n : Negotiation) : (s.resetCounter n).draws = s.draws := rfl
@[simp] theorem State.resetCounter_drawCount (s : State) (n : Negotiation) : (s.resetCounter n).drawCount = s.drawCount := rfl
@[simp] theorem State.resetCounter_sent (s : State) (n : Negotiation) : (s.resetCounter n).sent = s.sent := rfl
@[simp] theorem State.resetCounter_results (s : State) (n : Negotiation) : (s.resetCounter n).results = s.results := rfl
@[simp] theorem State.resetCounter_log (s : State) (n : Negotiation) : (s.resetCounter n).log = s.log := rfl

/-! ### State.endNegotiation -/

@[simp] theorem State.endNegotiation_cfg (s : State) (n : Negotiation) (k : Option Word64) : (s.endNegotiation n k).cfg = s.cfg := rfl
@[simp] theorem State.endNegotiation_linkState (s : State) (n : Negotiation) (k : Option Word64) : (s.endNegotiation n k).linkState = s.linkState := rfl
@[simp] theorem State.endNegotiation_rx (s : State) (n : Negotiation) (k : Option Word64) : (s.endNegotiation n k).rx = s.rx := rfl
@[simp] theorem State.endNegotiation_lock (s : State) (n : Negotiation) (k : Option Word64) : (s.endNegotiation n k).lock = s.lock := rfl
@[simp] theorem State.endNegotiation_downloadActive (s : State) (n : Negotiation) (k : Option Word64) : (s.endNegotiation n k).downloadActive = s.downloadActive := rfl
@[simp] theorem State.endNegotiation_transportOpen (s : State) (n : Negotiation) (k : Option Word64) : (s.endNegotiation n k).transportOpen = s.transportOpen := rfl
@[simp] theorem State.endNegotiation_refused (s : State) (n : Negotiation) (k : Option Word64) : (s.endNegotiation n k).refused = s.refused := rfl
@[simp] theorem State.endNegotiation_seq (s : State) (n : Negotiation) (k : Option Word64) : (s.endNegotiation n k).seq = s.seq := rfl
@[simp] theorem State.endNegotiation_ctr (s : State) (n : Negotiation) (k : Option Word64) : (s.endNegotiation n k).ctr = s.ctr := rfl
@[simp] theorem State.endNegotiation_cur (s : State) (n : Negotiation) (k : Option Word64) : (s.endNegotiation n k).cur = s.cur := rfl
@[simp] theorem State.endNegotiation_txbuf (s : State) (n : Negotiation) (k : Option Word64) : (s.endNegotiation n k).txbuf = s.txbuf := rfl
@[simp] theorem State.endNegotiation_lastTx (s : State) (n : Negotiation) (k : Option Word64) : (s.endNegotiation n k).lastTx = s.lastTx := rfl
@[simp] theorem State.endNegotiation_deadline (s : State) (n : Negotiation) (k : Option Word64) : (s.endNegotiation n k).deadline = s.deadline := rfl
@[simp] theorem State.endNegotiation_now (s : State) (n : Negotiation) (k : Option Word64) : (s.endNegotiation n k).now = s.now := rfl
@[simp] theorem State.endNegotiation_write (s : State) (n : Negotiation) (k : Option Word64) : (s.endNegotiation n k).write = s.write := rfl
@[simp] theorem State.endNegotiation_calls (s : State) (n : Negotiation) (k : Option Word64) : (s.endNegotiation n k).calls = s.calls := rfl
@[simp] theorem State.endNegotiation_events (s : State) (n : Negotiation) (k : Option Word64) : (s.endNegotiation n k).events = s.events := rfl
@[simp] theorem State.endNegotiation_draws (s : State) (n : Negotiation) (k : Option Word64) : (s.endNegotiation n k).draws = s.draws := rfl
@[simp] theorem State.endNegotiation_drawCount (s : State) (n : Negotiation) (k : Option Word64) : (s.endNegotiation n k).drawCount = s.drawCount := rfl
@[simp] theorem State.endNegotiation_sent (s : State) (n : Negotiation) (k : Option Word64) : (s.endNegotiation n k).sent = s.sent := rfl
@[simp] theorem State.endNegotiation_results (s : State) (n : Negotiation) (k : Option Word64) : (s.endNegotiation n k).results = s.results ++ [.negotiate n.addr k] := rfl
@[simp] theorem State.endNegotiation_log (s : State) (n : Negotiation) (k : Option Word64) : (s.endNegotiation n k).log = s.log := rfl

/-! ### State.resetElements -/

@[simp] theorem State.resetElements_cfg (s : State) : (s.resetElements).cfg = s.cfg := rfl
@[simp] theorem State.resetElements_linkState (s : State) : (s.resetElements).linkState = (State.resetWith s.cfg).linkState := rfl
@[simp] theorem State.resetElements_rx (s : State) : (s.resetElements).rx = (State.resetWith s.cfg).rx := rfl
@[simp] theorem State.resetElements_lock (s : State) : (s.resetElements).lock = (State.resetWith s.cfg).lock := rfl
@[simp] theorem State.resetElements_downloadActive (s : State) : (s.resetElements).downloadActive = (State.resetWith s.cfg).downloadActive := rfl
@[simp] theorem State.resetElements_transportOpen (s : State) : (s.resetElements).transportOpen = (State.resetWith s.cfg).transportOpen := rfl
@[simp] theorem State.resetElements_refused (s : State) : (s.resetElements).refused = (State.resetWith s.cfg).refused := rfl
@[simp] theorem State.resetElements_seq (s : State) : (s.resetElements).seq = (State.resetWith s.cfg).seq := rfl
@[simp] theorem State.resetElements_ctr (s : State) : (s.resetElements).ctr = (State.resetWith s.cfg).ctr := rfl
@[simp] theorem State.resetElements_cur (s : State) : (s.resetElements).cur = (State.resetWith s.cfg).cur := rfl
@[simp] theorem State.resetElements_txbuf (s : State) : (s.resetElements).txbuf = (State.resetWith s.cfg).txbuf := rfl
@[simp] theorem State.resetElements_lastTx (s : State) : (s.resetElements).lastTx = (State.resetWith s.cfg).lastTx := rfl
@[simp] theorem State.resetElements_deadline (s : State) : (s.resetElements).deadline = (State.resetWith s.cfg).deadline := rfl
@[simp] theorem State.resetElements_now (s : State) : (s.resetElements).now = s.now := rfl
@[simp] theorem State.resetElements_write (s : State) : (s.resetElements).write = (State.resetWith s.cfg).write := rfl
@[simp] theorem State.resetElements_calls (s : State) : (s.resetElements).calls = s.calls := rfl
@[simp] theorem State.resetElements_events (s : State) : (s.resetElements).events = s.events := rfl
@[simp] theorem State.resetElements_draws (s : State) : (s.resetElements).draws = s.draws := rfl
@[simp] theorem State.resetElements_drawCount (s : State) : (s.resetElements).drawCount = s.drawCount := rfl
@[simp] theorem State.resetElements_sent (s : State) : (s.resetElements).sent = s.sent := rfl
@[simp] theorem State.resetElements_results (s : State) : (s.resetElements).results = s.results := rfl
@[simp] theorem State.resetElements_log (s : State) : (s.resetElements).log = s.log := rfl

end Sys2Proof.Machine
end

