-- ==== Sys2Proof/Laws/Frame.lean ====
section
/-! SUPPORT. The deframer keeps its invariant on every byte (spec/43_frame_codec.md R224-R240), and a
received byte changes the deframer and the log only. -/

namespace Sys2Proof.Machine

open Sys2Proof

theorem deframerInv_rxReset (c : Config) (a : Addr) : DeframerInv c (Deframer.rxReset a) where
  stuffed _ := rfl
  waiting _ _ := ⟨rfl, rfl⟩
  ready h := by cases h
  inFrame h := by cases h
  start h := absurd rfl h
  capacity := by simp [Deframer.rxReset]
  disabled h := by cases h

theorem deframerInv_reset (c : Config) : DeframerInv c Deframer.reset where
  stuffed _ := rfl
  waiting _ _ := ⟨rfl, rfl⟩
  ready h := by cases h
  inFrame h := by cases h
  start h := absurd rfl h
  capacity := by simp [Deframer.reset]
  disabled _ := rfl

theorem deframerInv_discard {c : Config} {d : Deframer} (hr : d.ready = false)
    (he : d.expected ≠ none) : DeframerInv c d.discard where
  stuffed _ := rfl
  waiting _ _ := ⟨rfl, rfl⟩
  ready h := by simp [Deframer.discard, hr] at h
  inFrame h := by cases h
  start h := absurd rfl h
  capacity := by simp [Deframer.discard]
  disabled h := absurd h he

theorem byteAt_append_of_lt {xs : List Byte} (b : Byte) {i : Nat} (h : i < xs.length) :
    byteAt (xs ++ [b]) i = byteAt xs i := by
  simp [byteAt, List.getD, List.getElem?_append_left h]

/-- CONSUME keeps the invariant, from inside a frame (R230-R234). -/
theorem deframerInv_consume {c : Config} {d : Deframer} (h : DeframerInv c d)
    (hs : d.state = .inFrame) (he : d.expected ≠ none) (b : Byte) :
    DeframerInv c (d.consume c b).1 := by
  obtain ⟨hr, hlen, hnone, hsome⟩ := h.inFrame hs
  have hne : d.buf ≠ [] := fun e => by simp [e] at hlen
  have hhead : (d.buf ++ [b]).head? = some c.stx := by
    rw [List.head?_append_of_ne_nil _ hne]; exact h.start hne
  -- the total after the byte
  have htot : (d.append b).total =
      if (d.buf ++ [b]).length < 3 then none
      else some ((byteAt (d.buf ++ [b]) 2).toNat + 5) := by
    simp only [Deframer.append, List.length_append, List.length_singleton]
    by_cases h2 : d.buf.length + 1 = 3
    · simp [h2]
    · rw [if_neg h2]
      by_cases h3 : d.buf.length < 3
      · rw [hnone h3, if_pos (by omega)]
      · rw [(hsome (by omega)).1, if_neg (by omega), byteAt_append_of_lt b (by omega)]
  have hlt : 3 ≤ (d.buf ++ [b]).length →
      (d.buf ++ [b]).length ≤ (byteAt (d.buf ++ [b]) 2).toNat + 5 := by
    intro h3
    simp only [List.length_append, List.length_singleton] at h3 ⊢
    by_cases h2 : d.buf.length + 1 = 3
    · omega
    · have := (hsome (by omega)).2
      rw [byteAt_append_of_lt b (by omega)]; omega
  have hbyte := (byteAt (d.buf ++ [b]) 2).isLt
  unfold Deframer.consume
  by_cases hc : (d.append b).total = some (d.append b).buf.length
  · simp only [hc, if_true]
    have hbuf : (d.append b).buf = d.buf ++ [b] := rfl
    have h3 : ¬(d.buf ++ [b]).length < 3 := fun h' => by rw [htot, if_pos h'] at hc; cases hc
    have hex : (byteAt (d.buf ++ [b]) 2).toNat + 5 = (d.buf ++ [b]).length := by
      rw [htot, if_neg h3, hbuf] at hc; exact Option.some.inj hc
    unfold Deframer.complete
    split
    · exact deframerInv_discard hr he
    split
    · rename_i hx hg
      simp only [ne_eq, not_not] at hx
      exact {
        stuffed := fun _ => rfl
        waiting := fun _ h' => by cases h'
        ready := fun _ => ⟨rfl, hc, by rw [← hbuf] at hex; show 5 ≤ (d.append b).buf.length; omega,
          hx, hg⟩
        inFrame := fun h' => by cases h'
        start := fun _ => hhead
        capacity := by rw [← hbuf] at hex; show (d.append b).buf.length ≤ 260; omega
        disabled := fun h' => absurd h' he }
    · exact deframerInv_discard hr he
  · simp only [hc, if_false]
    refine {
      stuffed := fun h' => absurd (hs.symm.trans h') (by decide)
      waiting := fun h' => absurd (hs.symm.trans h') (by decide)
      ready := fun h' => absurd (hr.symm.trans h') (by decide)
      inFrame := fun _ => ⟨hr, by simp [Deframer.append], fun h3 => ?_, fun h3 => ?_⟩
      start := fun _ => hhead
      capacity := ?_
      disabled := fun h' => absurd h' he }
    · rw [htot]; exact if_pos h3
    · have h3' : ¬(d.buf ++ [b]).length < 3 := Nat.not_lt.mpr h3
      have heq : (d.append b).total = some ((byteAt (d.buf ++ [b]) 2).toNat + 5) := by
        rw [htot, if_neg h3']
      refine ⟨heq, ?_⟩
      have h1 := hlt h3
      have h2 : (byteAt (d.buf ++ [b]) 2).toNat + 5 ≠ (d.buf ++ [b]).length := fun e =>
        hc (by rw [heq, e]; rfl)
      show (d.buf ++ [b]).length < (byteAt (d.buf ++ [b]) 2).toNat + 5
      omega
    · show (d.buf ++ [b]).length ≤ 260
      by_cases h3 : 3 ≤ (d.buf ++ [b]).length
      · have := hlt h3; omega
      · omega

/-- The deframer's step on a byte keeps the invariant (R224). -/
theorem deframerInv_step {c : Config} {d : Deframer} (h : DeframerInv c d) (hr : d.ready = false)
    (he : d.expected ≠ none) (b : Byte) : DeframerInv c (d.step c b).1 := by
  unfold Deframer.step
  split
  · split
    · exact {
        stuffed := fun _ => rfl
        waiting := fun h' => by cases h'
        ready := fun h' => absurd (hr.symm.trans h') (by decide)
        inFrame := fun _ => ⟨hr, by simp, fun _ => rfl, fun h' => by simp at h'⟩
        start := fun _ => rfl
        capacity := by simp
        disabled := fun h' => absurd h' he }
    · exact h
  · rename_i hs
    split
    · split
      · refine deframerInv_consume (d := d.setStuffed false) ?_ hs he _
        exact {
          stuffed := fun _ => rfl
          waiting := fun h' => absurd (hs.symm.trans h') (by decide)
          ready := fun h' => absurd (hr.symm.trans h') (by decide)
          inFrame := h.inFrame
          start := h.start
          capacity := h.capacity
          disabled := fun h' => absurd h' he }
      · exact {
          stuffed := fun _ => rfl
          waiting := fun h' => absurd (hs.symm.trans h') (by decide)
          ready := fun h' => absurd (hr.symm.trans h') (by decide)
          inFrame := fun _ => ⟨hr, by simp, fun _ => rfl, fun h' => by simp at h'⟩
          start := fun _ => rfl
          capacity := by simp
          disabled := fun h' => absurd h' he }
    · split
      · exact {
          stuffed := fun h' => absurd (hs.symm.trans h') (by decide)
          waiting := fun h' => absurd (hs.symm.trans h') (by decide)
          ready := fun h' => absurd (hr.symm.trans h') (by decide)
          inFrame := h.inFrame
          start := h.start
          capacity := h.capacity
          disabled := fun h' => absurd h' he }
      · exact deframerInv_consume h hs he b

/-- An arriving byte changes the deframer and the log only, and keeps the deframer's invariant; it makes
a frame ready only while LINK_STATE is AWAITING_RESPONSE (R224, R236). -/
theorem arrive_frame (s : State) (b : Byte) :
    ∃ d log, s.arrive b = { s with rx := d, log := log } ∧
      (DeframerInv s.cfg s.rx → DeframerInv s.cfg d) ∧
      (d ≠ s.rx → s.linkState = .awaitingResponse) := by
  unfold State.arrive State.receive
  split
  · split
    · rename_i hh
      simp only [State.hears, Bool.and_eq_true, decide_eq_true_eq, Bool.not_eq_true'] at hh
      refine ⟨_, _, rfl, fun h => deframerInv_step h hh.2 ?_ b, fun _ => hh.1.2⟩
      intro e
      rw [e] at hh
      exact absurd hh.1.1 (by simp)
    · exact ⟨s.rx, s.log, rfl, id, fun h => absurd rfl h⟩
  · exact ⟨s.rx, s.log, rfl, id, fun h => absurd rfl h⟩

/-- The same for bytes in turn. -/
theorem arriveAll_frame (bs : List Byte) (s : State) :
    ∃ d log, s.arriveAll bs = { s with rx := d, log := log } ∧
      (DeframerInv s.cfg s.rx → DeframerInv s.cfg d) ∧
      (d ≠ s.rx → s.linkState = .awaitingResponse) := by
  induction bs generalizing s with
  | nil => exact ⟨s.rx, s.log, rfl, id, fun h => absurd rfl h⟩
  | cons b bs ih =>
    obtain ⟨d, l, h1, h2, h3⟩ := arrive_frame s b
    obtain ⟨d', l', h1', h2', h3'⟩ := ih (s.arrive b)
    refine ⟨d', l', ?_, ?_, ?_⟩
    · show (s.arrive b).arriveAll bs = _
      rw [h1', h1]
    · rw [h1] at h2'
      exact fun h => h2' (h2 h)
    · rw [h1] at h3'
      intro hne
      by_cases hd : d' = d
      · exact h3 (hd ▸ hne)
      · exact h3' hd

end Sys2Proof.Machine
end

