-- ==== Sys2Proof/Laws/Ops.lean ====
section
/-! SUPPORT. For each shared operation of Sys2Proof/Machine/Ops.lean, what it can do, said once: a refusal
(spec/60_exceptions.md R331), the table (10_state.md R44-R46) and the draws (00_scope.md R16). -/

namespace Sys2Proof.Machine

open Sys2Proof

/-! ### Refusals -/

theorem mem_addReason (r x : RefuseReason) (rs : List RefuseReason) :
    x ∈ addReason r rs ↔ x = r ∨ x ∈ rs := by
  have hall : x ∈ RefuseReason.all := by cases x <;> decide
  simp [addReason, hall]

/-- A refusal, whatever its reason, is what `Spec.Refused` says. -/
theorem refused_refuse (s : State) (r : RefuseReason) : Spec.Refused (.next (s.refuse r)) s r :=
  ⟨addReason r s.refused, rfl, fun x => mem_addReason r x s.refused⟩

/-! ### The table -/

/-- What admits a RESET, in the terms claims use. -/
theorem quiet_iff (s : State) : s.quiet = true ↔
    s.lock = .free ∧ s.linkState = .idle ∧ ∀ n stage, Call.negotiation n stage ∉ s.calls := by
  simp only [State.quiet, Bool.and_eq_true, decide_eq_true_eq, and_assoc, Bool.not_eq_true',
    List.any_eq_false]
  refine and_congr_right fun _ => and_congr_right fun _ => ⟨fun h n stage hm => h _ hm rfl, ?_⟩
  rintro h (_ | ⟨n, stage⟩) hm
  · exact Bool.false_ne_true
  · exact absurd hm (h n stage)

theorem slot_val (a : Addr) : (slot a).val = a.toNat := rfl

theorem slot_lt (a : Addr) : (slot a).val < 128 := a.isLt

theorem setSeq_seq_ne (s : State) (a : Addr) (v : Bool) (i : Fin nAddr) (h : slot a ≠ i) :
    (s.setSeq a v).seq[i] = s.seq[i] := by
  have : (slot a).val ≠ i.val := fun e => h (Fin.ext e)
  simp [State.setSeq, this]

theorem setSeq_seq_self (s : State) (a : Addr) (v : Bool) : (s.setSeq a v).seq[slot a] = v := by
  simp [State.setSeq]

theorem setCtr_ctr_ne (s : State) (a : Addr) (v : Word32) (i : Fin nAddr) (h : slot a ≠ i) :
    (s.setCtr a v).ctr[i] = s.ctr[i] := by
  have : (slot a).val ≠ i.val := fun e => h (Fin.ext e)
  simp [State.setCtr, this]

theorem setCtr_ctr_self (s : State) (a : Addr) (v : Word32) : (s.setCtr a v).ctr[slot a] = v := by
  simp [State.setCtr]

/-! ### Draws -/

/-- A draw changes the draw input and nothing else. -/
theorem draw_frame (s : State) (bound : Nat) :
    ∃ draws drawCount, (s.draw bound).2 = { s with draws := draws, drawCount := drawCount } := by
  unfold State.draw
  split
  · exact ⟨_, s.drawCount, rfl⟩
  · rename_i h
    exact ⟨s.draws, s.drawCount + 1, rfl⟩

theorem draw_lt (s : State) {bound : Nat} (h : 0 < bound) : (s.draw bound).1 < bound := by
  unfold State.draw
  split <;> exact Nat.mod_lt _ h

/-- While the draw input holds values, a draw takes the next. -/
theorem draw_cons (s : State) (bound v : Nat) (rest : List Nat) (h : s.draws = v :: rest) :
    s.draw bound = (v % bound, { s with draws := rest }) := by
  simp [State.draw, h]

/-- Drawing bytes changes the draw input and nothing else, and answers as many bytes as were asked. -/
theorem drawBytes_frame (n : Nat) (s : State) :
    (State.drawBytes n s).1.length = n ∧
      ∃ draws drawCount,
        (State.drawBytes n s).2 = { s with draws := draws, drawCount := drawCount } := by
  induction n generalizing s with
  | zero => exact ⟨rfl, s.draws, s.drawCount, rfl⟩
  | succ n ih =>
    obtain ⟨ds, dc, hd⟩ := draw_frame s 256
    obtain ⟨hl, ds', dc', hd'⟩ := ih (s.draw 256).2
    refine ⟨by simp [State.drawBytes, hl], ds', dc', ?_⟩
    simp only [State.drawBytes]
    rw [hd', hd]

/-- While the draw input holds bytes, drawing bytes takes them. -/
theorem drawBytes_append (pad : List Byte) (rest : List Nat) (s : State) :
    State.drawBytes pad.length { s with draws := pad.map BitVec.toNat ++ rest } =
      (pad, { s with draws := rest }) := by
  induction pad with
  | nil => rfl
  | cons b bs ih =>
    have hb : b.toNat % 256 = b.toNat := Nat.mod_eq_of_lt b.isLt
    simp only [List.length_cons, List.map_cons, List.cons_append, State.drawBytes, State.draw, hb]
    rw [ih]
    simp

theorem drawDistinct_spec (bound : Nat) (hb : 0 < bound) (ds : List Nat) :
    ∀ p q rest, drawDistinct bound ds = some ((p, q), rest) → p ≠ q ∧ p < bound ∧ q < bound := by
  match ds with
  | [] => intro p q rest h; simp [drawDistinct] at h
  | [_] => intro p q rest h; simp [drawDistinct] at h
  | x :: y :: tl =>
    intro p q rest h
    rw [drawDistinct] at h
    split at h
    · exact drawDistinct_spec bound hb tl p q rest h
    · rename_i hne
      simp only [Option.some.injEq, Prod.mk.injEq] at h
      obtain ⟨⟨rfl, rfl⟩, rfl⟩ := h
      exact ⟨hne, Nat.mod_lt _ hb, Nat.mod_lt _ hb⟩

/-- Drawing a pair changes the draw input and nothing else. -/
theorem drawPair_frame (s : State) (bound : Nat) :
    ∃ draws drawCount,
      (s.drawPair bound).2 = { s with draws := draws, drawCount := drawCount } := by
  unfold State.drawPair
  split
  · exact ⟨_, s.drawCount, rfl⟩
  · exact ⟨[], s.drawCount + 2, rfl⟩

/-- The two of a drawn pair differ and are below the bound (41_key_negotiation.md R168). -/
theorem drawPair_distinct (s : State) {bound : Nat} (hb : 2 ≤ bound) :
    (s.drawPair bound).1.1 ≠ (s.drawPair bound).1.2 ∧ (s.drawPair bound).1.1 < bound ∧
      (s.drawPair bound).1.2 < bound := by
  unfold State.drawPair
  split
  · rename_i pq rest h
    exact drawDistinct_spec bound (by omega) s.draws pq.1 pq.2 rest h
  · refine ⟨?_, Nat.mod_lt _ (by omega), Nat.mod_lt _ (by omega)⟩
    show Config.freeDraw s.drawCount % bound ≠ _
    generalize hp : Config.freeDraw s.drawCount % bound = p
    have hpl : p < bound := hp ▸ Nat.mod_lt _ (by omega)
    generalize hq : Config.freeDraw (s.drawCount + 1) % (bound - 1) = q
    have hql : q < bound - 1 := hq ▸ Nat.mod_lt _ (by omega)
    show p ≠ (p + 1 + q) % bound
    by_cases h : p + 1 + q < bound
    · rw [Nat.mod_eq_of_lt h]; omega
    · rw [Nat.mod_eq_sub_mod (by omega), Nat.mod_eq_of_lt (by omega)]; omega

/-- While the draw input holds a pair of distinct values, that pair is drawn. -/
theorem drawPair_cons (s : State) (bound p q : Nat) (rest : List Nat) (h : s.draws = p :: q :: rest)
    (hp : p < bound) (hq : q < bound) (hne : p ≠ q) :
    s.drawPair bound = ((p, q), { s with draws := rest }) := by
  simp [State.drawPair, h, drawDistinct, Nat.mod_eq_of_lt hp, Nat.mod_eq_of_lt hq, hne]

end Sys2Proof.Machine
end

