-- ==== Sys2Proof/Laws/Link.lean ====
section
/-! SUPPORT. What the link agent's operations can do (spec/44_link_fsm.md): the admission, the compiled
exchange, and the end of an exchange, each said once. -/

namespace Sys2Proof.Machine

open Sys2Proof

/-! ### Admission (R262) -/

/-- What an admitted Command satisfies. -/
theorem admission_none {s : State} {c : Command} (h : s.admission c = none) :
    s.downloadActive = false ∧ c.addr.toNat ≤ 127 ∧ (c.enc = true → c.key ≠ none) ∧
      c.cmd.length ≤ 250 ∧ (c.enc = true → c.cmd.length ≤ 233) ∧
      (c.enc = true → s.ctrAt (c.addr.setWidth 7) ≠ 0xFFFFFFFF) := by
  unfold State.admission at h
  split at h
  · cases h
  split at h
  · cases h
  split at h
  · cases h
  split at h
  · cases h
  split at h
  · cases h
  rename_i h1 h2 h3 h4 h5
  simp only [wireAddrMax, maxPayload, maxInner] at h2 h4
  refine ⟨by simpa using h1, by omega, fun he hk => h3 ⟨he, hk⟩, by omega, fun he => ?_,
    fun he hc => h5 ⟨he, hc⟩⟩
  by_contra hlt
  exact h4 (.inr ⟨he, by omega⟩)

/-- A Command that satisfies the checks is admitted. -/
theorem admission_eq_none {s : State} {c : Command} (h1 : s.downloadActive = false)
    (h2 : c.addr.toNat ≤ 127) (h3 : c.enc = true → c.key ≠ none) (h4 : c.cmd.length ≤ 250)
    (h5 : c.enc = true → c.cmd.length ≤ 233)
    (h6 : c.enc = true → s.ctrAt (c.addr.setWidth 7) ≠ 0xFFFFFFFF) : s.admission c = none := by
  have a2 : ¬wireAddrMax < c.addr.toNat := by simp only [wireAddrMax]; omega
  have a3 : ¬(c.enc = true ∧ c.key = none) := fun h => h3 h.1 h.2
  have a4 : ¬(maxPayload < c.cmd.length ∨ (c.enc = true ∧ maxInner < c.cmd.length)) := by
    rintro (h | ⟨he, h⟩)
    · simp only [maxPayload] at h; omega
    · have := h5 he; simp only [maxInner] at h; omega
  have a5 : ¬(c.enc = true ∧ s.ctrAt (c.addr.setWidth 7) = 0xFFFFFFFF) := fun h => h6 h.1 h.2
  simp only [State.admission, h1, a2, a3, a4, a5, if_false, Bool.false_eq_true]

/-! ### Compiling (R264-R266) -/

@[simp] theorem ecb_length (key : Block) (buf : List Byte) (dir : Direction) :
    (ecb key buf dir).length = 16 * (buf.length / 16) := by
  unfold ecb
  generalize buf.length / 16 = n
  induction n generalizing buf with
  | zero => rfl
  | succ n ih => simp [ecbBlocks, ih]; omega

theorem envelopeWith_length (c : Config) (xs : List Byte) (ctr : Word32) (pad : List Byte) :
    (envelopeWith c xs ctr pad).length = 7 + xs.length + pad.length := by
  simp [envelopeWith]; omega

/-- Compiling changes LINK_STATE, the exchange registers, TXBUF, for a SYNC the address's sequence bit,
and for an encrypted command the draw input; the frame's payload fits the length byte. -/
theorem compile_eq (s : State) (x : Exchange) :
    ∃ payload draws drawCount,
      (x.enc = false ∨ x.key = none → payload = x.cmd ∧ draws = s.draws ∧ drawCount = s.drawCount) ∧
      (x.enc = true → x.cmd.length ≤ 233 → x.cmd.length ≤ 250 → payload.length ≤ 250) ∧
      s.compile x =
        { s with
          linkState := .sending
          cur := some x
          seq := (s.syncReset x).seq
          txbuf := frameEncode s.cfg x.addr ((s.syncReset x).seqAt x.addr) payload
          draws := draws
          drawCount := drawCount } := by
  have hs : ∃ sq, s.syncReset x = { s with seq := sq } := by
    unfold State.syncReset
    split
    · exact ⟨_, rfl⟩
    · exact ⟨s.seq, rfl⟩
  obtain ⟨sq, hs⟩ := hs
  by_cases hx : x.enc = true ∧ ∃ k, x.key = some k
  · obtain ⟨he, k, hk⟩ := hx
    obtain ⟨hl, ds, dc, hd⟩ := drawBytes_frame (padCount x.cmd.length) { s with seq := sq }
    refine ⟨encryptWith s.cfg x.cmd (s.ctrAt x.addr) k
      (State.drawBytes (padCount x.cmd.length) { s with seq := sq }).1, ds, dc, fun h => ?_,
      fun _ h233 _ => ?_, ?_⟩
    · simp [he, hk] at h
    · simp only [encryptWith, List.length_cons, ecb_length, envelopeWith_length, hl]
      simp only [padCount]
      omega
    · simp only [State.compile, hs, State.compilePayload, he, hk, State.encryptPayload]
      rw [hd]
      rfl
  · have hp : ∀ s' : State, s'.compilePayload x = (x.cmd, s') := by
      intro s'
      unfold State.compilePayload
      split
      · rename_i k he hk
        exact absurd ⟨he, k, hk⟩ hx
      · rfl
    refine ⟨x.cmd, s.draws, s.drawCount, fun _ => ⟨rfl, rfl, rfl⟩, fun _ _ h => h, ?_⟩
    simp only [State.compile, hs, hp]

/-- What SEND_COMMAND can do on a free lock: refuse, or start an exchange. -/
theorem beginExchange_cases (s : State) (o : Owner) (c : Command) :
    (∃ r, s.admission c = some r ∧
      s.beginExchange o c = { s with refused := addReason r s.refused, lock := .free }) ∨
    (s.admission c = none ∧ ∃ payload draws drawCount, payload.length ≤ 250 ∧
      s.beginExchange o c =
        { s with
          lock := .held
          linkState := .sending
          cur := some (latch s.cfg o c)
          seq := (s.syncReset (latch s.cfg o c)).seq
          txbuf := frameEncode s.cfg (c.addr.setWidth 7)
            ((s.syncReset (latch s.cfg o c)).seqAt (c.addr.setWidth 7)) payload
          draws := draws
          drawCount := drawCount }) := by
  unfold State.beginExchange
  cases h : s.admission c with
  | some r => exact .inl ⟨r, rfl, rfl⟩
  | none =>
    obtain ⟨_, _, hk, h250, h233, _⟩ := admission_none h
    obtain ⟨payload, ds, dc, hplain, henc, heq⟩ := compile_eq s.acquire (latch s.cfg o c)
    refine .inr ⟨rfl, payload, ds, dc, ?_, ?_⟩
    · by_cases he : c.enc = true
      · exact henc he (h233 he) h250
      · rw [(hplain (.inl (Bool.eq_false_iff.mpr he))).1]; exact h250
    · have hseq : (s.acquire.syncReset (latch s.cfg o c)).seq =
          (s.syncReset (latch s.cfg o c)).seq := by
        unfold State.syncReset; split <;> rfl
      show s.acquire.compile (latch s.cfg o c) = _
      rw [heq, State.seqAt, hseq]
      rfl

/-! ### The end of an exchange (R277, R278) -/

/-- FINISH is what `Spec.answered` says. -/
theorem finish_eq_answered (s : State) (o : Owner) (st : Status) (resp : List Byte) :
    s.finish o st resp = Spec.answered s o st resp := by
  cases o with
  | host c => rfl
  | negotiation n k =>
    unfold State.finish Spec.answered State.answer
    show State.toIdle (if st = .resp s.cfg.okCode then _ else _) = if _ then _ else _
    split
    · cases k <;> simp only [stageAfter] <;> try rfl
      by_cases h : resp.length < 8
      · rw [if_pos h, if_neg (by omega)]; rfl
      · rw [if_neg h, if_pos (by omega)]; rfl
    · rfl

/-- Without a decoded response, FINISH is what `Spec.failed` says. -/
theorem finish_eq_failed (s : State) (o : Owner) {st : Status} (h : ∀ b, st ≠ .resp b) :
    s.finish o st [] = Spec.failed s o st := by
  rw [finish_eq_answered]
  cases o with
  | host c => rfl
  | negotiation n k => simp only [Spec.answered, h, if_false]; rfl

/-- What an end of an exchange leaves: the closed state, and one result or one more step of a
NEGOTIATE. -/
theorem answered_eq (s : State) (o : Owner) (st : Status) (data : List Byte) :
    ∃ results calls,
      Spec.answered s o st data =
        { Spec.closed s with results := results, calls := calls } ∧
      (∀ c, o = .host c → results = s.results ++ [.exchange c st data] ∧ calls = s.calls) ∧
      (∀ n k, o = .negotiation n k →
        (results = s.results ++ [.negotiate n.addr none] ∧ calls = s.calls) ∨
        ∃ stage, results = s.results ∧ calls = s.calls ++ [.negotiation n stage]) := by
  cases o with
  | host c =>
    refine ⟨s.results ++ [.exchange c st data], s.calls, rfl, ?_, ?_⟩
    · intro c' h; cases h; exact ⟨rfl, rfl⟩
    · intro n k h; cases h
  | negotiation n k =>
    have fail : ∃ results calls,
        Spec.abandoned s n = { Spec.closed s with results := results, calls := calls } ∧
        (∀ c, Owner.negotiation n k = .host c →
          results = s.results ++ [.exchange c st data] ∧ calls = s.calls) ∧
        (∀ n' k', Owner.negotiation n k = .negotiation n' k' →
          (results = s.results ++ [.negotiate n'.addr none] ∧ calls = s.calls) ∨
          ∃ stage, results = s.results ∧ calls = s.calls ++ [.negotiation n' stage]) :=
      ⟨s.results ++ [.negotiate n.addr none], s.calls, rfl, fun c h => (by cases h),
        fun n' k' h => (by cases h; exact .inl ⟨rfl, rfl⟩)⟩
    have go : ∀ stage, ∃ results calls,
        Spec.continued s n stage = { Spec.closed s with results := results, calls := calls } ∧
        (∀ c, Owner.negotiation n k = .host c →
          results = s.results ++ [.exchange c st data] ∧ calls = s.calls) ∧
        (∀ n' k', Owner.negotiation n k = .negotiation n' k' →
          (results = s.results ++ [.negotiate n'.addr none] ∧ calls = s.calls) ∨
          ∃ stage, results = s.results ∧ calls = s.calls ++ [.negotiation n' stage]) :=
      fun stage => ⟨s.results, s.calls ++ [.negotiation n stage], rfl, fun c h => (by cases h),
        fun n' k' h => (by cases h; exact .inr ⟨stage, rfl, rfl⟩)⟩
    unfold Spec.answered
    dsimp only
    split
    · cases k <;> dsimp only
      · exact go _
      · exact go _
      · exact go _
      · split
        · exact go _
        · exact fail
    · exact fail

/-! ### What a response says (R271-R274) -/

theorem isEncrypted_iff (c : Config) (p : List Byte) :
    isEncrypted c p = true ↔ ∃ cipher, p = c.encMarker :: cipher := by
  cases p <;> simp [isEncrypted]

theorem statusOf_eq (c : Config) (status : Byte) (data : List Byte) :
    statusOf c status data = Spec.resultOf c status data := by
  simp [statusOf, Spec.resultOf, List.head?_eq_getElem?]

theorem resultOf_ne_timeout (c : Config) (status : Byte) (data : List Byte) :
    Spec.resultOf c status data ≠ .timeout := by
  unfold Spec.resultOf
  split <;> simp

theorem payloadOf_eq (f : List Byte) : payloadOf f = Spec.payload f := by
  unfold payloadOf slice Spec.payload
  congr 1

end Sys2Proof.Machine
end

