-- ==== Sys2Proof/Laws/PerInstr.lean ====
section
/-! SUPPORT. Statements about every instruction as syntax, one lemma for each constructor of Instr. -/

namespace Sys2Proof.Laws.RowWord

open Sys2Proof

/-- The words of spec/opcode_table.json that select an instruction's row, as its mask and match name
them (30_encoding.md R121, R116, R117, R107): a mask of zero fixes no byte. -/
def fixedBytes : Instr → List Byte
  | .crc16 _ _ _ => [0x01]
  | .crcCheck _ _ _ _ _ => [0x02]
  | .modexp _ _ _ => [0x03]
  | .negotiate _ _ _ => [0x04]
  | .aesBlock _ _ _ => [0x05]
  | .envelope _ _ => [0x06]
  | .encrypt _ _ _ => [0x07]
  | .decrypt _ _ _ => [0x08]
  | .frameEncode _ _ _ => [0x09]
  | .stuff _ _ => [0x0A]
  | .rxByte _ => [0x0B]
  | .rxReset _ => [0x0C]
  | .sendCommand _ => [0x0D]
  | .reset => [0x0E]
  | .time _ => [0x10]
  | .openPort _ => [0x11]
  | .closePort => [0x12]
  | .download _ => [0x13]
  | .sync _ _ _ => [0x11]
  | .setGenerator _ _ _ _ => [0x4A]
  | .setModulus _ _ _ _ => [0x4B]
  | .requestKeyExchange _ _ _ _ => [0x4C]
  | .otherCommand _ _ _ _ _ _ _ => []
  | .ok _ _ => [0xF0]
  | .deviceBusy _ _ => [0xF5, 0x03]
  | .commandNotProcessed _ _ => [0xF5]
  | .otherStatus _ _ _ => []
  | .encryptedPacket _ _ => [0x7E]

/-- A lower row's instruction does not begin with the words of a row of its format that is matched
before it (30_encoding.md R118, R120; the table's "precedence"). -/
def Precedence (i : Instr) : Prop :=
  match i.format, (encode i).headD 0 with
  | .operation, _ => True
  | .command, b => fixedBytes i = [] → b ≠ 0x11 ∧ b ≠ 0x4A ∧ b ≠ 0x4B ∧ b ≠ 0x4C
  | .response, b =>
    (fixedBytes i = [] → b ≠ 0xF0 ∧ b ≠ 0xF5 ∧ b ≠ 0x7E) ∧
      (fixedBytes i = [0xF5] → (encode i).getD 1 0 ≠ 0x03)

/-- A well-formed instruction's encoding begins with its row's words and with no higher row's. -/
def Statement (i : Instr) : Prop := i.wf = true → fixedBytes i <+: encode i ∧ Precedence i

theorem crc16 (xs : List Byte) (seed poly : Word16) : Statement (.crc16 xs seed poly) :=
  fun _ => ⟨⟨_, rfl⟩, trivial⟩

theorem crcCheck (xs : List Byte) (lo hi : Byte) (seed poly : Word16) :
    Statement (.crcCheck xs lo hi seed poly) := fun _ => ⟨⟨_, rfl⟩, trivial⟩

theorem modexp (b e m : Word64) : Statement (.modexp b e m) := fun _ => ⟨⟨_, rfl⟩, trivial⟩

theorem negotiate (addr : Byte) (retry timeout : Nat) : Statement (.negotiate addr retry timeout) :=
  fun _ => ⟨⟨_, rfl⟩, trivial⟩

theorem aesBlock (key block : Block) (dir : Direction) : Statement (.aesBlock key block dir) :=
  fun _ => ⟨⟨_, rfl⟩, trivial⟩

theorem envelope (inner : List Byte) (ctr : Word32) : Statement (.envelope inner ctr) :=
  fun _ => ⟨⟨_, rfl⟩, trivial⟩

theorem encrypt (inner : List Byte) (ctr : Word32) (key : Word64) :
    Statement (.encrypt inner ctr key) := fun _ => ⟨⟨_, rfl⟩, trivial⟩

theorem decrypt (payload : List Byte) (key : Word64) (ctr : Word32) :
    Statement (.decrypt payload key ctr) := fun _ => ⟨⟨_, rfl⟩, trivial⟩

theorem frameEncode (addr : Byte) (seq : Bool) (payload : List Byte) :
    Statement (.frameEncode addr seq payload) := fun _ => ⟨⟨_, rfl⟩, trivial⟩

theorem stuff (first : Byte) (rest : List Byte) : Statement (.stuff first rest) :=
  fun _ => ⟨⟨_, rfl⟩, trivial⟩

theorem rxByte (b : Byte) : Statement (.rxByte b) := fun _ => ⟨⟨_, rfl⟩, trivial⟩

theorem rxReset (addr : Addr) : Statement (.rxReset addr) := fun _ => ⟨⟨_, rfl⟩, trivial⟩

theorem sendCommand (c : Command) : Statement (.sendCommand c) := fun _ => ⟨⟨_, rfl⟩, trivial⟩

theorem reset : Statement .reset := fun _ => ⟨⟨_, rfl⟩, trivial⟩

theorem time (t : Nat) : Statement (.time t) := fun _ => ⟨⟨_, rfl⟩, trivial⟩

theorem openPort (port : List Byte) : Statement (.openPort port) := fun _ => ⟨⟨_, rfl⟩, trivial⟩

theorem closePort : Statement .closePort := fun _ => ⟨⟨_, rfl⟩, trivial⟩

theorem download (v : Bool) : Statement (.download v) := fun _ => ⟨⟨_, rfl⟩, trivial⟩

theorem sync (addr : Byte) (retry timeout : Nat) : Statement (.sync addr retry timeout) :=
  fun _ => ⟨⟨_, rfl⟩, nofun⟩

theorem setGenerator (v : Word64) (addr : Byte) (retry timeout : Nat) :
    Statement (.setGenerator v addr retry timeout) := fun _ => ⟨⟨_, rfl⟩, nofun⟩

theorem setModulus (v : Word64) (addr : Byte) (retry timeout : Nat) :
    Statement (.setModulus v addr retry timeout) := fun _ => ⟨⟨_, rfl⟩, nofun⟩

theorem requestKeyExchange (v : Word64) (addr : Byte) (retry timeout : Nat) :
    Statement (.requestKeyExchange v addr retry timeout) := fun _ => ⟨⟨_, rfl⟩, nofun⟩

theorem otherCommand (code : Byte) (params : List Byte) (addr : Byte) (enc : Bool)
    (key : Option Word64) (retry timeout : Nat) :
    Statement (.otherCommand code params addr enc key retry timeout) := by
  intro h
  refine ⟨List.nil_prefix, fun _ => ?_⟩
  simpa [Instr.wf, reservedCommandCodes, encode] using h

theorem ok (sa : Byte) (data : List Byte) : Statement (.ok sa data) :=
  fun _ => ⟨⟨_, rfl⟩, nofun, nofun⟩

theorem deviceBusy (sa : Byte) (more : List Byte) : Statement (.deviceBusy sa more) :=
  fun _ => ⟨⟨_, rfl⟩, nofun, nofun⟩

theorem commandNotProcessed (sa : Byte) (data : List Byte) :
    Statement (.commandNotProcessed sa data) := by
  intro h
  refine ⟨⟨_, rfl⟩, nofun, fun _ => ?_⟩
  cases data with
  | nil => simp [encode]
  | cons b bs => simp_all [Instr.wf, encode]

theorem otherStatus (status sa : Byte) (data : List Byte) :
    Statement (.otherStatus status sa data) := by
  intro h
  refine ⟨List.nil_prefix, fun _ => ?_, nofun⟩
  simp [Instr.wf, reservedStatusCodes] at h
  exact h.2

theorem encryptedPacket (sa : Byte) (cipher : List Byte) : Statement (.encryptedPacket sa cipher) :=
  fun _ => ⟨⟨_, rfl⟩, nofun, nofun⟩

end Sys2Proof.Laws.RowWord
end

