-- ==== Sys2Proof/Laws/Step.lean ====
section
/-! SUPPORT. What one step can do, said once (`Change`): every invariant of the machine is a case analysis
over it. -/

namespace Sys2Proof.Machine

open Sys2Proof

/-- The step leaves the link alone: only the ports, the calls, the flags of the environment, the time and
REFUSED may change. -/
structure Quiet (s t : State) : Prop where
  cfg : t.cfg = s.cfg
  linkState : t.linkState = s.linkState
  rx : t.rx = s.rx
  lock : t.lock = s.lock
  seq : t.seq = s.seq
  ctr : t.ctr = s.ctr
  cur : t.cur = s.cur
  txbuf : t.txbuf = s.txbuf
  lastTx : t.lastTx = s.lastTx
  deadline : t.deadline = s.deadline
  sent : t.sent = s.sent
  now : s.now ≤ t.now
  write : t.write = s.write ∨ t.write = s.write.doom
  refused : ∀ r, r ∈ s.refused → r ∈ t.refused
  badConfig : RefuseReason.badConfig ∈ t.refused →
    RefuseReason.badConfig ∈ s.refused ∨ legalConfig s.cfg = false

/-- The state an exchange ends in, before the result is handed back. -/
structure Ending (s : State) (x : Exchange) (u : State) (st : Status) (resp : List Byte) : Prop where
  cfg : u.cfg = s.cfg
  refused : u.refused = s.refused
  txbuf : u.txbuf = s.txbuf
  lastTx : u.lastTx = s.lastTx
  now : u.now = s.now
  sent : u.sent = s.sent
  results : u.results = s.results
  calls : u.calls = s.calls
  rx : DeframerInv s.cfg s.rx → DeframerInv s.cfg u.rx
  table : (u.seq = s.seq ∧ u.ctr = s.ctr ∧ resp = [] ∧ st ≠ .busy ∧ (∀ b, st ≠ .resp b)) ∨
    (s.linkState = .awaitingResponse ∧ u.rx.ready = true ∧
      ∃ rxEnc status, Spec.Decoded s x (Spec.payload u.rx.buf) rxEnc status resp ∧
        u.seq = Spec.toggled s x.addr ∧ u.ctr = Spec.counted s x rxEnc ∧
        st = Spec.resultOf s.cfg status resp)
  timeout : st = .timeout → s.linkState = .awaitingResponse ∧ x.retriesLeft ≤ 1

/-- What one step can do to the state `s`. -/
inductive Change (s : State) : State → Prop where
  | quiet {t : State} (h : Quiet s t) : Change s t
  /-- bytes arrive, or the deframer is reset -/
  | received {t : State} (d : Deframer) (hd : DeframerInv s.cfg s.rx → DeframerInv s.cfg d)
      (h : Quiet { s with rx := d } t) : Change s t
  /-- NEGOTIATE resets a counter -/
  | counterReset {t : State} (a : Addr) (hl : s.lock = .free)
      (h : Quiet { s with ctr := s.ctr.set (slot a) 0 } t) : Change s t
  /-- an exchange starts -/
  | begun {t : State} (o : Owner) (c : Command) (payload : List Byte) (hl : s.lock = .free)
      (hlen : c.cmd.length ≤ 250) (hp : payload.length ≤ 250)
      (henc : c.enc = true → c.key ≠ none ∧ c.cmd.length ≤ 233 ∧
        s.ctrAt (c.addr.setWidth 7) ≠ 0xFFFFFFFF)
      (ho : ∀ c', o = .host c' → c' = c) (hn : ∀ n k, o = .negotiation n k → c.retry = n.retry)
      (h : Quiet { s with
        lock := .held
        linkState := .sending
        cur := some (latch s.cfg o c)
        seq := (s.syncReset (latch s.cfg o c)).seq
        txbuf := frameEncode s.cfg (c.addr.setWidth 7)
          ((s.syncReset (latch s.cfg o c)).seqAt (c.addr.setWidth 7)) payload } t) : Change s t
  /-- a write is issued -/
  | issued {t : State} (x : Exchange) (hc : s.cur = some x) (hl : s.linkState = .sending)
      (hw : s.write = .none) (hs : s.spacingMet = true)
      (h : t.cfg = s.cfg ∧ t.linkState = s.linkState ∧ t.lock = s.lock ∧ t.seq = s.seq ∧
        t.ctr = s.ctr ∧ t.cur = s.cur ∧ t.txbuf = s.txbuf ∧ t.now = s.now ∧ t.refused = s.refused)
      (hrx : t.rx = Deframer.rxReset x.addr) (hlt : t.lastTx = some s.now)
      (hdl : t.deadline = some (s.now + x.timeout)) (hsent : t.sent = s.sent ++ [s.txbuf])
      (hwr : t.write = .pending (!s.transportOpen)) : Change s t
  /-- the transport answers `ok` -/
  | writeOk {t : State} (x : Exchange) (d : Bool) (hc : s.cur = some x) (hw : s.write = .pending d)
      (h : Quiet { s with write := .none, linkState := .awaitingResponse } t) : Change s t
  /-- an attempt times out and another one is left -/
  | retried {t : State} (x : Exchange) (hc : s.cur = some x) (hl : s.linkState = .awaitingResponse)
      (hr : 1 < x.retriesLeft)
      (h : Quiet { s with
        linkState := .sending
        cur := some { x with retriesLeft := x.retriesLeft - 1 } } t) : Change s t
  /-- an exchange ends -/
  | ended (x : Exchange) (u : State) (st : Status) (resp : List Byte) (hc : s.cur = some x)
      (h : Ending s x u st resp) : Change s (Spec.answered u x.owner st resp)
  /-- RESET -/
  | reset {t : State} (hev : Spec.ResetNext s) (hl : s.lock = .free) (hs : s.linkState = .idle) (hc : ∀ n stage, Call.negotiation n stage ∉ s.calls)
      (hr : t.refused = [])
      (h : Quiet { State.resetWith s.cfg with now := s.now, sent := s.sent } t) :
      Change s t

theorem Quiet.rfl' (s : State) : Quiet s s :=
  ⟨rfl, rfl, rfl, rfl, rfl, rfl, rfl, rfl, rfl, rfl, rfl, Nat.le_refl _, .inl rfl, fun _ h => h,
    fun h => .inl h⟩

/-- A state that differs in the ports, the calls and the environment's flags is quiet. -/
theorem quiet_mk (s : State) (calls : List Call) (events : List Event) (draws : List Nat)
    (drawCount : Nat) (results : List Result) (log : List LogEntry) (dl : Bool) (op : Bool) :
    Quiet s { s with
      calls := calls, events := events, draws := draws, drawCount := drawCount, results := results
      log := log, downloadActive := dl, transportOpen := op } :=
  ⟨rfl, rfl, rfl, rfl, rfl, rfl, rfl, rfl, rfl, rfl, rfl, Nat.le_refl _, .inl rfl, fun _ h => h,
    fun h => .inl h⟩

theorem quiet_refuse (s : State) {r : RefuseReason} (hr : r ≠ .badConfig ∨ legalConfig s.cfg = false) :
    Quiet s (s.refuse r) :=
  ⟨rfl, rfl, rfl, rfl, rfl, rfl, rfl, rfl, rfl, rfl, rfl, Nat.le_refl _, .inl rfl,
    fun x h => (mem_addReason r x _).mpr (.inr h), fun h => by
      rcases (mem_addReason r _ _).mp h with h | h
      · rcases hr with hr | hr
        · exact absurd h.symm hr
        · exact .inr hr
      · exact .inl h⟩

theorem admission_ne_badConfig {s : State} {c : Command} {r : RefuseReason} (h : s.admission c = some r) :
    r ≠ .badConfig := by
  unfold State.admission at h
  rintro rfl
  repeat (first | split at h | cases h)

/-- What SEND_COMMAND does on a free lock, in a state with other calls, events and draws than `s`. -/
theorem change_begin (s : State) (calls : List Call) (events : List Event) (o : Owner) (c : Command)
    (hl : s.lock = .free) (ho : ∀ c', o = .host c' → c' = c)
    (hn : ∀ n k, o = .negotiation n k → c.retry = n.retry) :
    Change s ({ s with calls := calls, events := events }.beginExchange o c) := by
  rcases beginExchange_cases { s with calls := calls, events := events } o c with
    ⟨r, ha, h⟩ | ⟨ha, payload, ds, dc, hp, h⟩
  · rw [h]
    have hne := admission_ne_badConfig ha
    refine .quiet ⟨rfl, rfl, rfl, hl.symm, rfl, rfl, rfl, rfl, rfl, rfl, rfl, Nat.le_refl _, .inl rfl,
      fun x hx => (mem_addReason r x _).mpr (.inr hx), fun hx => ?_⟩
    rcases (mem_addReason r _ _).mp hx with hx | hx
    · exact absurd hx.symm hne
    · exact .inl hx
  · rw [h]
    obtain ⟨_, _, hk, h250, h233, hctr⟩ := admission_none ha
    have hseq : ({ s with calls := calls, events := events }.syncReset (latch s.cfg o c)).seq =
        (s.syncReset (latch s.cfg o c)).seq := by
      unfold State.syncReset; split <;> rfl
    refine .begun o c payload hl h250 hp (fun he => ⟨hk he, h233 he, hctr he⟩) ho hn ?_
    simp only [State.seqAt]
    rw [hseq]
    exact quiet_mk _ calls events ds dc _ _ _ _

theorem change_callSend (s : State) (events : List Event) (c : Command) :
    Change s ({ s with events := events }.callSend c) := by
  unfold State.callSend
  split
  · rename_i hl
    exact change_begin s s.calls events (.host c) c hl (fun c' h => by cases h; rfl) nofun
  · exact .quiet (quiet_mk s _ events _ _ _ _ _ _)

/-! ### The steps of an exchange -/

/-- A state that differs from `s` in what a decoding may have touched already. -/
structure Near (s u : State) : Prop where
  cfg : u.cfg = s.cfg
  refused : u.refused = s.refused
  txbuf : u.txbuf = s.txbuf
  lastTx : u.lastTx = s.lastTx
  now : u.now = s.now
  sent : u.sent = s.sent
  results : u.results = s.results
  calls : u.calls = s.calls
  seq : u.seq = s.seq
  ctr : u.ctr = s.ctr
  rx : DeframerInv s.cfg s.rx → DeframerInv s.cfg u.rx

theorem Near.rfl' (s : State) (events : List Event) : Near s { s with events := events } :=
  ⟨rfl, rfl, rfl, rfl, rfl, rfl, rfl, rfl, rfl, rfl, id⟩

theorem change_finish_failed {s u : State} {x : Exchange} (hc : s.cur = some x) (hn : Near s u)
    {st : Status} (hb : st ≠ .busy) (hr : ∀ b, st ≠ .resp b)
    (ht : st = .timeout → s.linkState = .awaitingResponse ∧ x.retriesLeft ≤ 1) :
    Change s (u.finish x.owner st []) := by
  rw [finish_eq_answered]
  exact .ended x u st [] hc ⟨hn.cfg, hn.refused, hn.txbuf, hn.lastTx, hn.now, hn.sent, hn.results,
    hn.calls, hn.rx, .inl ⟨hn.seq, hn.ctr, rfl, hb, hr⟩, ht⟩

theorem change_succeed {s u : State} {x : Exchange} (hc : s.cur = some x) (hn : Near s u)
    (hl : s.linkState = .awaitingResponse) (hr : u.rx.ready = true) (rxEnc : Bool) (status : Byte)
    (data : List Byte) (hd : Spec.Decoded s x (Spec.payload u.rx.buf) rxEnc status data) :
    Change s (u.succeed x rxEnc status data) := by
  unfold State.succeed
  rw [finish_eq_answered]
  have hst : statusOf u.cfg status data = Spec.resultOf s.cfg status data := by
    rw [statusOf_eq, hn.cfg]
  have hnt : Spec.resultOf s.cfg status data ≠ .timeout := resultOf_ne_timeout _ _ _
  have hseq : (u.setSeq x.addr (!u.seqAt x.addr)).seq = Spec.toggled s x.addr := by
    simp only [State.setSeq, State.seqAt, hn.seq, Spec.toggled]
  by_cases he : (x.enc && rxEnc) = true
  · simp only [he, if_true]
    refine .ended x _ _ data hc ⟨hn.cfg, hn.refused, hn.txbuf, hn.lastTx, hn.now, hn.sent,
      hn.results, hn.calls, hn.rx, .inr ⟨hl, hr, rxEnc, status, hd, hseq, ?_, hst⟩,
      fun h => absurd (hst ▸ h) hnt⟩
    rw [Spec.counted, if_pos (show x.enc = true ∧ rxEnc = true by simpa using he)]
    simp only [State.setCtr, State.setSeq, State.ctrAt, hn.ctr]
  · simp only [he]
    refine .ended x _ _ data hc ⟨hn.cfg, hn.refused, hn.txbuf, hn.lastTx, hn.now, hn.sent,
      hn.results, hn.calls, hn.rx, .inr ⟨hl, hr, rxEnc, status, hd, hseq, ?_, hst⟩,
      fun h => absurd (hst ▸ h) hnt⟩
    rw [Spec.counted, if_neg (show ¬(x.enc = true ∧ rxEnc = true) by simpa using he)]
    exact hn.ctr

theorem change_decodeFrame {s u : State} {x : Exchange} (hc : s.cur = some x) (hn : Near s u)
    (hl : s.linkState = .awaitingResponse) (hr : u.rx.ready = true) : Change s (u.decodeFrame x) := by
  have hset : ∀ v, Near s (u.setRxEnc x v) := fun v =>
    ⟨hn.cfg, hn.refused, hn.txbuf, hn.lastTx, hn.now, hn.sent, hn.results, hn.calls, hn.seq, hn.ctr,
      hn.rx⟩
  have hconc : ∀ v d, (∀ status data, d = status :: data →
      Spec.Decoded s x (Spec.payload u.rx.buf) v status data) →
      Change s ((u.setRxEnc x v).conclusion x v d) := by
    intro v d hd
    unfold State.conclusion
    split
    · exact change_finish_failed (st := .packetError .empty) hc (hset v) nofun nofun nofun
    · exact change_succeed hc (hset v) hl hr v _ _ (hd _ _ rfl)
  unfold State.decodeFrame State.decodePayload
  rw [payloadOf_eq]
  split
  · rename_i hp
    dsimp only
    split
    · exact change_finish_failed (st := .packetError .noKey) hc (hset true) nofun nofun nofun
    · rename_i k hk
      split
      · rename_i reason _
        exact change_finish_failed (st := .packetError reason) hc (hset true) nofun nofun nofun
      · rename_i d ho
        refine hconc true d (fun status data hd => ?_)
        obtain ⟨cipher, hp⟩ := (isEncrypted_iff _ _).mp hp
        refine ⟨cipher, k, by rw [hp, hn.cfg], hk, ?_⟩
        show exec _ _ = _
        simp only [exec, execDecrypt, State.emit]
        have ho : decryptPayload u.cfg (Spec.payload u.rx.buf) k u.ctr[slot x.addr] = .ok d := ho
        rw [hn.cfg, hn.ctr] at ho
        rw [ho, hd]
  · rename_i hp
    refine hconc false _ (fun status data hd => ⟨hd, fun h => hp ?_⟩)
    exact (isEncrypted_iff _ _).mpr ⟨data, by rw [hd, h, hn.cfg]⟩

theorem change_timeoutPath {s : State} {x : Exchange} (hc : s.cur = some x)
    (hl : s.linkState = .awaitingResponse) (events : List Event) (draws : List Nat)
    (drawCount : Nat) :
    Change s
      ({ s with events := events, draws := draws, drawCount := drawCount }.timeoutPath x) := by
  unfold State.timeoutPath
  split
  · rename_i hr
    exact change_finish_failed (st := .timeout)
      (u := { s with events := events, draws := draws, drawCount := drawCount }) hc
      ⟨rfl, rfl, rfl, rfl, rfl, rfl, rfl, rfl, rfl, rfl, id⟩ nofun nofun (fun _ => ⟨hl, hr⟩)
  · rename_i hr
    exact .retried x hc hl (by omega) (quiet_mk _ _ events draws drawCount _ _ _ _)

theorem change_exchangeMove (s : State) (events : List Event) :
    Change s ({ s with events := events }.exchangeMove) := by
  have hq : Change s { s with events := events } := .quiet (quiet_mk s _ events _ _ _ _ _ _)
  unfold State.exchangeMove
  split
  · exact hq
  · rename_i x hc
    have hc : s.cur = some x := hc
    split
    · rename_i hl
      split
      · rename_i hw
        exact .issued x hc hl hw.1 hw.2 ⟨rfl, rfl, rfl, rfl, rfl, rfl, rfl, rfl, rfl⟩ rfl rfl rfl rfl
          rfl
      · exact hq
    · rename_i hl
      unfold State.awaitBranch
      split
      · rename_i hr
        split
        · obtain ⟨ds, dc, hd⟩ := draw_frame { s with events := events } 2
          dsimp only
          rw [hd]
          split
          · exact change_decodeFrame hc ⟨rfl, rfl, rfl, rfl, rfl, rfl, rfl, rfl, rfl, rfl, id⟩ hl hr
          · exact change_timeoutPath hc hl events ds dc
        · exact change_decodeFrame hc (.rfl' s events) hl hr
      · split
        · exact change_finish_failed (st := .portError) hc (.rfl' s events) nofun nofun nofun
        split
        · exact change_timeoutPath hc hl events s.draws s.drawCount
        · exact hq
    · exact hq
    · exact hq
    · exact hq

theorem change_writeAnswered (s : State) (events : List Event) (good : Bool) :
    Change s ({ s with events := events }.writeAnswered good) := by
  unfold State.writeAnswered
  split
  · rename_i d x hw hc
    have hc : s.cur = some x := hc
    have hw : s.write = .pending d := hw
    split
    · exact .writeOk x d hc hw (quiet_mk _ _ events _ _ _ _ _ _)
    · exact change_finish_failed (st := .portError) hc (.rfl' s events) nofun nofun nofun
  · exact .quiet (quiet_mk s _ events _ _ _ _ _ _)

/-! ### The calls -/

theorem change_callMove (s : State) (events : List Event) (i : Nat) :
    Change s ({ s with events := events }.callMove i) := by
  have hq : Change s { s with events := events } := .quiet (quiet_mk s _ events _ _ _ _ _ _)
  unfold State.callMove
  split
  · exact hq
  · rename_i c hc
    split
    · rename_i hl
      exact change_begin s _ events (.host c) c hl (fun c' h => by cases h; rfl) nofun
    · exact hq
  · rename_i n stage hc
    unfold State.negotiationMove
    split
    · split
      · rename_i hl
        exact .counterReset (n.addr.setWidth 7) hl ⟨rfl, rfl, rfl, hl.symm, rfl, rfl, rfl, rfl, rfl,
          rfl, rfl, Nat.le_refl _, .inl rfl, fun _ h => h, fun h => .inl h⟩
      · exact hq
    · rename_i k
      split
      · rename_i hl
        exact change_begin s _ events (.negotiation n k) _ hl nofun
          (fun n' k' h => by cases h; rfl)
      · exact hq
    · split
      · exact .quiet (quiet_mk s _ events _ _ _ _ _ _)
      · exact .quiet (quiet_mk s _ events _ _ _ _ _ _)
    · exact .quiet (quiet_mk s _ events _ _ _ _ _ _)

theorem drawNegotiation_frame (s : State) :
    ∃ draws drawCount, s.drawNegotiation.2 = { s with draws := draws, drawCount := drawCount } := by
  obtain ⟨ds, dc, h⟩ := drawPair_frame s (2 ^ s.cfg.primeBits)
  obtain ⟨ds', dc', h'⟩ := draw_frame (s.drawPair (2 ^ s.cfg.primeBits)).2 s.cfg.secretBound
  exact ⟨ds', dc', by simp only [State.drawNegotiation]; rw [h', h]⟩

theorem change_deviceAnswers (s : State) (events : List Event) (sa : Byte) (payload : List Byte) :
    Change s ({ s with events := events }.deviceAnswers sa payload) := by
  unfold State.deviceAnswers
  obtain ⟨d, l, h1, h2, h3⟩ :=
    arriveAll_frame (wireOf s.cfg sa payload) { s with events := events }
  dsimp only
  rw [h1]
  have hq : Change s { s with events := events, rx := d, log := l } :=
    .received d h2 (quiet_mk { s with rx := d } _ events _ _ _ l _ _)
  split
  · rename_i x hc
    split
    · rename_i hr
      simp only [Bool.and_eq_true, Bool.not_eq_true'] at hr
      refine change_decodeFrame hc ⟨rfl, rfl, rfl, rfl, rfl, rfl, rfl, rfl, rfl, rfl, h2⟩ (h3 ?_) hr.1
      rintro rfl
      exact absurd hr.1 (by simp [hr.2])
    · exact hq
  · exact hq

/-! ### Every instruction and every step -/

theorem exec_change (i : Instr) (s t : State) (events : List Event)
    (hev : i = .reset → Spec.ResetNext s) (h : exec i { s with events := events } = .next t) : Change s t := by
  have hq : ∀ calls draws drawCount results log dl op, Change s { s with
      calls := calls, events := events, draws := draws, drawCount := drawCount, results := results
      log := log, downloadActive := dl, transportOpen := op } :=
    fun calls draws drawCount results log dl op =>
      .quiet (quiet_mk s calls events draws drawCount results log dl op)
  have hrf : ∀ r : RefuseReason, r ≠ .badConfig ∨ legalConfig s.cfg = false →
      Change s ({ s with events := events }.refuse r) := by
    intro r hr
    have h1 := quiet_refuse s hr
    exact .quiet ⟨rfl, rfl, rfl, rfl, rfl, rfl, rfl, rfl, rfl, rfl, rfl, Nat.le_refl _, .inl rfl,
      h1.refused, h1.badConfig⟩
  cases i with
  | crc16 xs seed poly => cases h; exact hq _ _ _ _ _ _ _
  | crcCheck xs lo hi seed poly => cases h; exact hq _ _ _ _ _ _ _
  | modexp b e m => cases h; exact hq _ _ _ _ _ _ _
  | negotiate addr retry timeout =>
    simp only [exec, execNegotiate] at h
    split at h
    · cases h; exact hrf _ (.inl (by simp))
    split at h
    · cases h; exact hrf _ (.inl (by simp))
    · obtain ⟨ds, dc, hd⟩ := drawNegotiation_frame { s with events := events }
      rw [hd] at h
      split at h
      · cases h; exact hq _ _ _ _ _ _ _
      · cases h
        unfold State.startNegotiation
        split
        · rename_i hl
          exact .counterReset (addr.setWidth 7) hl ⟨rfl, rfl, rfl, hl.symm, rfl, rfl, rfl, rfl, rfl,
            rfl, rfl, Nat.le_refl _, .inl rfl, fun _ h => h, fun h => .inl h⟩
        · exact hq _ _ _ _ _ _ _
  | aesBlock key block dir => cases h; exact hq _ _ _ _ _ _ _
  | envelope inner ctr =>
    simp only [exec, execEnvelope] at h
    split at h
    · cases h; exact hrf _ (.inl (by simp))
    · obtain ⟨_, ds, dc, hd⟩ := drawBytes_frame (padCount inner.length) { s with events := events }
      rw [hd] at h
      cases h
      exact hq _ _ _ _ _ _ _
  | encrypt inner ctr key =>
    simp only [exec, execEncrypt, State.encryptPayload] at h
    split at h
    · cases h; exact hrf _ (.inl (by simp))
    · obtain ⟨_, ds, dc, hd⟩ := drawBytes_frame (padCount inner.length) { s with events := events }
      rw [hd] at h
      cases h
      exact hq _ _ _ _ _ _ _
  | decrypt payload key ctr => cases h; exact hq _ _ _ _ _ _ _
  | frameEncode addr seq payload =>
    simp only [exec, execFrameEncode] at h
    split at h
    · cases h; exact hrf _ (.inl (by simp))
    split at h
    · cases h; exact hrf _ (.inl (by simp))
    · cases h; exact hq _ _ _ _ _ _ _
  | stuff first rest => cases h; exact hq _ _ _ _ _ _ _
  | rxByte b =>
    cases h
    obtain ⟨d, l, h1, h2, _⟩ := arrive_frame { s with events := events } b
    rw [h1]
    exact .received d h2 (quiet_mk { s with rx := d } _ events _ _ _ l _ _)
  | rxReset addr =>
    cases h
    exact .received _ (fun _ => deframerInv_rxReset s.cfg addr)
      (quiet_mk { s with rx := Deframer.rxReset addr } _ events _ _ _ _ _ _)
  | sendCommand c => cases h; exact change_callSend s events c
  | reset =>
    simp only [exec, execReset] at h
    split at h
    · rename_i hc
      cases h; exact hrf _ (.inr (by simpa using hc))
    split at h
    · cases h; exact hrf _ (.inl (by simp))
    · rename_i hquiet
      obtain ⟨hl, hi, hn⟩ := (quiet_iff s).mp (by simpa [State.quiet] using hquiet)
      cases h
      exact .reset (hev rfl) hl hi hn rfl
        ⟨rfl, rfl, rfl, rfl, rfl, rfl, rfl, rfl, rfl, rfl, rfl, Nat.le_refl _, .inl rfl,
          fun _ h => h, fun h => .inl h⟩
  | time u =>
    simp only [exec, execTime] at h
    split at h
    · cases h
    · rename_i hu
      cases h
      exact .quiet ⟨rfl, rfl, rfl, rfl, rfl, rfl, rfl, rfl, rfl, rfl, rfl, Nat.le_of_not_lt hu,
        .inl rfl, fun _ h => h, fun h => .inl h⟩
  | openPort port =>
    simp only [exec, execOpenPort] at h
    obtain ⟨ds, dc, hd⟩ := draw_frame { s with events := events } 2
    rw [hd] at h
    split at h
    · cases h; exact hq _ _ _ _ _ _ _
    · cases h
      exact .quiet ⟨rfl, rfl, rfl, rfl, rfl, rfl, rfl, rfl, rfl, rfl, rfl, Nat.le_refl _, .inr rfl,
        fun _ h => h, fun h => .inl h⟩
  | closePort =>
    cases h
    exact .quiet ⟨rfl, rfl, rfl, rfl, rfl, rfl, rfl, rfl, rfl, rfl, rfl, Nat.le_refl _, .inr rfl,
      fun _ h => h, fun h => .inl h⟩
  | download v => cases h; exact hq _ _ _ _ _ _ _
  | sync addr retry timeout => cases h; exact change_callSend s events _
  | setGenerator g addr retry timeout => cases h; exact change_callSend s events _
  | setModulus m addr retry timeout => cases h; exact change_callSend s events _
  | requestKeyExchange a addr retry timeout => cases h; exact change_callSend s events _
  | otherCommand code params addr enc key retry timeout => cases h; exact change_callSend s events _
  | ok sa data => cases h; exact change_deviceAnswers s events sa _
  | deviceBusy sa more => cases h; exact change_deviceAnswers s events sa _
  | commandNotProcessed sa data => cases h; exact change_deviceAnswers s events sa _
  | otherStatus status sa data => cases h; exact change_deviceAnswers s events sa _
  | encryptedPacket sa cipher => cases h; exact change_deviceAnswers s events sa _

/-- Every step is one of the changes. -/
theorem step_change (s t : State) (h : step s = .next t) : Change s t := by
  have hrf : ∀ events, legalConfig s.cfg ≠ true →
      Change s ({ s with events := events }.refuse .badConfig) := by
    intro events hl
    have h1 := quiet_refuse s (r := .badConfig) (.inr (by simpa using hl))
    exact .quiet ⟨rfl, rfl, rfl, rfl, rfl, rfl, rfl, rfl, rfl, rfl, rfl, Nat.le_refl _, .inl rfl,
      h1.refused, h1.badConfig⟩
  unfold step at h
  split at h
  · split at h
    · cases h
      unfold State.idleMove
      split
      · exact change_exchangeMove s s.events
      · exact change_callMove s s.events 0
    · rename_i hl
      cases h
      exact hrf s.events hl
  · rename_i e rest he
    split at h
    · cases e with
      | operation fmt bytes =>
        simp only [State.move, State.perform] at h
        split at h
        · rename_i i hd
          exact exec_change i s t rest (fun hi => ⟨fmt, bytes, rest, he, hi ▸ hd⟩) h
        · cases h
      | written good => cases h; exact change_writeAnswered s rest good
      | exchange => cases h; exact change_exchangeMove s rest
      | call i => cases h; exact change_callMove s rest i
    · rename_i hl
      cases h
      exact hrf rest hl

end Sys2Proof.Machine
end

