-- ==== Sys2Proof/Tests/Slice0.lean ====
section
/-! SUPPORT. Tests: the ill-formed terms that WellFormed refuses, words that decode to each constructor, one
step of each instruction on values of spec/95_test_vectors.md, and for each obligation with hypotheses a
state and operands that meet them. -/

namespace Sys2Proof.Tests

open Sys2Proof Sys2Proof.Machine

/- One theorem at a time: each kernel evaluation waits for the theorems before it. -/
set_option Elab.async false

/-! ### Helpers -/

def resultsOf : Out → List Result
  | .next t => t.results
  | .fault _ => []
  | .refused _ => []

def refusedOf : Out → List RefuseReason
  | .next t => t.refused
  | .fault _ => []
  | .refused _ => []

/-- A field of the next state, or nothing. -/
def seen {α : Type} (f : State → α) : Out → Option α
  | .next t => some (f t)
  | .fault _ => none
  | .refused _ => none

/-- After RESET and an OPEN answered ok. -/
def base : State := { State.reset with transportOpen := true }

/-- The host's Command of program P2: `SEND a=0 enc=0 key=- retry=2 timeout=500 cmd=[07]`. -/
def cmd07 : Command := ⟨0, false, none, 2, 500, [0x07]⟩

/-- The host's Command of program P3, encrypted under k = 5. -/
def cmdEnc : Command := ⟨0, true, some 5, 1, 500, [0x07]⟩

/-- A NEGOTIATE with program P4's values. -/
def neg : Negotiation := ⟨5, 1, 500, 37, 47, 27, 36⟩

/-- An exchange of a Command at address 0. -/
def exchangeOf (c : Command) (retries : Nat) : Exchange :=
  ⟨.host c, 0, c.enc, c.key, c.cmd, c.timeout, retries, false, none⟩

/-- The link agent before the write of an exchange: TXBUF is compiled, 200 ms after the last write. -/
def sending (x : Exchange) : State :=
  { base with
    lock := .held, linkState := .sending, cur := some x
    txbuf := [0x7F, 0x80, 0x01, 0x07, 0x12, 0x02], lastTx := some 0, now := 200 }

/-- The link agent waiting for a response until 500, with the deframer just reset. -/
def waiting (x : Exchange) : State :=
  { base with
    lock := .held, linkState := .awaitingResponse, cur := some x, lastTx := some 0
    deadline := some 500, rx := Spec.fresh 0 }

/-- The same with a frame accepted. -/
def holding (x : Exchange) (frame : List Byte) : State :=
  { waiting x with rx := Spec.accepted frame 0 }

/-- V-DEC-1: encrypts `[F0]` with counter 0 under k = 5. -/
def packetF0 : List Byte :=
  [0x7E, 0x47, 0xE0, 0xEF, 0x3F, 0xC4, 0xCA, 0xBD, 0x36, 0xB4, 0x4D, 0xDF, 0x25, 0x3D, 0xC3, 0x5F, 0xB4]

/-- V-DEC-9: encrypts the empty payload with counter 0 under k = 5. -/
def packetEmpty : List Byte :=
  [0x7E, 0x50, 0x47, 0xA1, 0x97, 0x0D, 0xD4, 0xFC, 0x44, 0x7C, 0xE9, 0xBF, 0xD8, 0x9E, 0x1C, 0xB4, 0x29]

/-! ### WellFormed refuses what is ill formed -/

theorem test_wf_command_code : (Instr.otherCommand 0x4B [] 0 false none 0 0).wf = false := by decide +kernel
theorem test_wf_ok_long : (Instr.ok 0 (List.replicate 255 0)).wf = false := by decide +kernel
theorem test_wf_busy_long : (Instr.deviceBusy 0 (List.replicate 254 0)).wf = false := by decide +kernel
theorem test_wf_not_processed_long :
    (Instr.commandNotProcessed 0 (List.replicate 255 0)).wf = false := by decide +kernel
theorem test_wf_not_processed_busy : (Instr.commandNotProcessed 0 [0x03]).wf = false := by decide +kernel
theorem test_wf_other_long : (Instr.otherStatus 0xF1 0 (List.replicate 255 0)).wf = false := by decide +kernel
theorem test_wf_other_status : (Instr.otherStatus 0x7E 0 []).wf = false := by decide +kernel
theorem test_wf_packet_long : (Instr.encryptedPacket 0 (List.replicate 255 0)).wf = false := by decide +kernel

/-! ### Words that decode to each constructor: the row's bytes from 30_encoding.md R121, R116, R117 and
R107, the operands as log entry 7 lays them out -/

theorem test_decode_crc16 : decode .operation [0x01, 0x03, 0x00, 0x01, 0x11, 0xFF, 0xFF, 0x05, 0x80] =
    .ok (.crc16 [0x00, 0x01, 0x11] 0xFFFF 0x8005) := by decide +kernel
theorem test_decode_crcCheck :
    decode .operation [0x02, 0x01, 0x11, 0x66, 0x08, 0xFF, 0xFF, 0x05, 0x80] =
      .ok (.crcCheck [0x11] 0x66 0x08 0xFFFF 0x8005) := by decide +kernel
theorem test_decode_modexp :
    decode .operation [0x03, 37, 0, 0, 0, 0, 0, 0, 0, 27, 1, 0, 0, 0, 0, 0, 0, 47, 0, 0, 0, 0, 0, 0, 1] =
      .ok (.modexp 37 283 0x010000000000002F) := by decide +kernel
theorem test_decode_negotiate : decode .operation [0x04, 0x05, 0x01, 0xF4, 0x03] =
    .ok (.negotiate 5 1 500) := by decide +kernel
theorem test_decode_aesBlock :
    decode .operation ([0x05] ++ [1, 0, 0, 0, 0, 0, 0, 0, 0, 0, 0, 0, 0, 0, 0, 0] ++
        [0, 0, 0, 0, 0, 2, 0, 0, 0, 0, 0, 0, 0, 0, 0, 3] ++ [0x01]) =
      .ok (.aesBlock ⟨⟨1, 0, 0, 0⟩, ⟨0, 0, 0, 0⟩, ⟨0, 0, 0, 0⟩, ⟨0, 0, 0, 0⟩⟩
        ⟨⟨0, 0, 0, 0⟩, ⟨0, 2, 0, 0⟩, ⟨0, 0, 0, 0⟩, ⟨0, 0, 0, 3⟩⟩ .dec) := by decide +kernel
theorem test_decode_envelope : decode .operation [0x06, 0x01, 0x07, 0x04, 0x03, 0x02, 0x01] =
    .ok (.envelope [0x07] 0x01020304) := by decide +kernel
theorem test_decode_encrypt :
    decode .operation [0x07, 0x01, 0x07, 0x04, 0x03, 0x02, 0x01, 5, 0, 0, 0, 0, 0, 0, 0] =
      .ok (.encrypt [0x07] 0x01020304 5) := by decide +kernel
theorem test_decode_decrypt :
    decode .operation [0x08, 0x02, 0x7E, 0x07, 5, 0, 0, 0, 0, 0, 0, 0, 0x04, 0x03, 0x02, 0x01] =
      .ok (.decrypt [0x7E, 0x07] 5 0x01020304) := by decide +kernel
theorem test_decode_frameEncode : decode .operation [0x09, 0x80, 0x01, 0x01, 0x11] =
    .ok (.frameEncode 128 true [0x11]) := by decide +kernel
theorem test_decode_stuff : decode .operation [0x0A, 0x7F, 0x02, 0x00, 0x7F] =
    .ok (.stuff 0x7F [0x00, 0x7F]) := by decide +kernel
theorem test_decode_rxByte : decode .operation [0x0B, 0x7F] = .ok (.rxByte 0x7F) := by decide +kernel
theorem test_decode_rxReset : decode .operation [0x0C, 0x7F] = .ok (.rxReset 127) := by decide +kernel
theorem test_decode_sendCommand :
    decode .operation [0x0D, 0x00, 0x01, 0x01, 5, 0, 0, 0, 0, 0, 0, 0, 0x01, 0xF4, 0x03, 0x01, 0x07] =
      .ok (.sendCommand ⟨0, true, some 5, 1, 500, [0x07]⟩) := by decide +kernel
theorem test_decode_reset : decode .operation [0x0E] = .ok .reset := by decide +kernel
theorem test_decode_time : decode .operation [0x10, 0xF4, 0x03] = .ok (.time 500) := by decide +kernel
theorem test_decode_open : decode .operation [0x11, 0x01, 0x41] = .ok (.openPort [0x41]) := by
  decide +kernel
theorem test_decode_close : decode .operation [0x12] = .ok .closePort := by decide +kernel
theorem test_decode_download : decode .operation [0x13, 0x01] = .ok (.download true) := by decide +kernel
theorem test_decode_sync : decode .command [0x11, 0x00, 0x03, 0xF4, 0x03] = .ok (.sync 0 3 500) := by
  decide +kernel
theorem test_decode_setGenerator :
    decode .command [0x4A, 0x25, 0, 0, 0, 0, 0, 0, 0, 0x05, 0x01, 0xF4, 0x03] =
      .ok (.setGenerator 37 5 1 500) := by decide +kernel
theorem test_decode_setModulus :
    decode .command [0x4B, 0x2F, 0, 0, 0, 0, 0, 0, 0, 0x05, 0x01, 0xF4, 0x03] =
      .ok (.setModulus 47 5 1 500) := by decide +kernel
theorem test_decode_requestKeyExchange :
    decode .command [0x4C, 0x24, 0, 0, 0, 0, 0, 0, 0, 0x05, 0x01, 0xF4, 0x03] =
      .ok (.requestKeyExchange 36 5 1 500) := by decide +kernel
theorem test_decode_otherCommand :
    decode .command [0x07, 0x01, 0xAA, 0x03, 0x00, 0x00, 0x01, 0xF4, 0x03] =
      .ok (.otherCommand 0x07 [0xAA] 3 false none 1 500) := by decide +kernel
theorem test_decode_ok : decode .response [0xF0, 0x80, 0x01, 0xAA] = .ok (.ok 0x80 [0xAA]) := by
  decide +kernel
theorem test_decode_deviceBusy : decode .response [0xF5, 0x03, 0x80, 0x00] = .ok (.deviceBusy 0x80 []) := by
  decide +kernel
theorem test_decode_commandNotProcessed :
    decode .response [0xF5, 0x01, 0x80, 0x01, 0x01] = .ok (.commandNotProcessed 0x80 [0x01]) := by
  decide +kernel
theorem test_decode_otherStatus : decode .response [0xF1, 0x80, 0x00] = .ok (.otherStatus 0xF1 0x80 []) := by
  decide +kernel
theorem test_decode_encryptedPacket :
    decode .response [0x7E, 0x80, 0x02, 0x47, 0xE0] = .ok (.encryptedPacket 0x80 [0x47, 0xE0]) := by
  decide +kernel

/-- 0x00, 0x0F and 0x14 are no selectors (30_encoding.md R121). -/
theorem test_decode_unknown : decode .operation [0x0F] = .error (.unknownSelector 0x0F) ∧
    decode .operation [0x14] = .error (.unknownSelector 0x14) ∧
    decode .operation [0x00] = .error (.unknownSelector 0x00) := by decide +kernel

/-! ### One step of each instruction -/

/-- V-CRC-5 -/
theorem test_crc16 : resultsOf (exec (.crc16 [0x00, 0x01, 0x11] 0xFFFF 0x8005) base) =
    [.crc16 0x0866] := by decide +kernel
/-- V-CRC-8, the catalogue value of CRC-16/CCITT-FALSE -/
theorem test_crc16_catalogue :
    resultsOf (exec (.crc16 [0x31, 0x32, 0x33, 0x34, 0x35, 0x36, 0x37, 0x38, 0x39] 0xFFFF 0x1021) base) =
      [.crc16 0x29B1] := by decide +kernel
/-- V-CC-1 -/
theorem test_crcCheck : resultsOf (exec (.crcCheck [0x00, 0x01, 0x11] 0x66 0x08 0xFFFF 0x8005) base) =
    [.crcCheck true] := by decide +kernel
/-- V-CC-2: the bytes are swapped -/
theorem test_crcCheck_swapped :
    resultsOf (exec (.crcCheck [0x00, 0x01, 0x11] 0x08 0x66 0xFFFF 0x8005) base) = [.crcCheck false] := by
  decide +kernel
/-- V-MX-15 -/
theorem test_modexp :
    resultsOf (exec (.modexp 0xFFFFFFFFFFFFFFFF 3 0xFFFFFFFFFFFFFFC5) base) = [.modexp (some 0x2FA28)] := by
  decide +kernel
/-- V-MX-11 -/
theorem test_modexp_zero : resultsOf (exec (.modexp 0 5 7) base) = [.modexp none] := by decide +kernel
/-- V-AES-1 -/
theorem test_aesBlock :
    resultsOf (exec (.aesBlock
        ⟨⟨0x00, 0x01, 0x02, 0x03⟩, ⟨0x04, 0x05, 0x06, 0x07⟩, ⟨0x08, 0x09, 0x0A, 0x0B⟩,
          ⟨0x0C, 0x0D, 0x0E, 0x0F⟩⟩
        ⟨⟨0x00, 0x11, 0x22, 0x33⟩, ⟨0x44, 0x55, 0x66, 0x77⟩, ⟨0x88, 0x99, 0xAA, 0xBB⟩,
          ⟨0xCC, 0xDD, 0xEE, 0xFF⟩⟩ .enc) base) =
      [.aesBlock ⟨⟨0x69, 0xC4, 0xE0, 0xD8⟩, ⟨0x6A, 0x7B, 0x04, 0x30⟩, ⟨0xD8, 0xCD, 0xB7, 0x80⟩,
        ⟨0x70, 0xB4, 0xC5, 0x5A⟩⟩] := by decide +kernel
/-- V-ENV-1, its eight padding bytes drawn as 0 -/
theorem test_envelope :
    resultsOf (exec (.envelope [0x07] 0) { base with draws := List.replicate 8 0 }) =
      [.envelope [0x01, 0, 0, 0, 0, 0x07, 0, 0, 0, 0, 0, 0, 0, 0, 0xA1, 0xC7]] := by decide +kernel
/-- V-ENV-2 -/
theorem test_encrypt :
    resultsOf (exec (.encrypt [0x07] 1 5) { base with draws := List.replicate 8 0 }) =
      [.encrypt [0x7E, 0x7F, 0x9D, 0x74, 0x87, 0xA8, 0x60, 0xBF, 0x47, 0xF9, 0x0C, 0x5F, 0x5E, 0x96,
        0x40, 0x70, 0x9D]] := by decide +kernel
/-- V-DEC-2: embedded counter 0, expected 1 -/
theorem test_decrypt_counter : resultsOf (exec (.decrypt packetF0 5 1) base) =
    [.decrypt (.error .counter)] := by decide +kernel
/-- V-DEC-8: the declared length overruns the buffer -/
theorem test_decrypt_inner :
    resultsOf (exec (.decrypt [0x7E, 0x05, 0x37, 0xEE, 0xE4, 0x29, 0xFF, 0x6F, 0xA4, 0x6C, 0x07, 0x7D,
      0x3A, 0xD8, 0x30, 0x80, 0x78] 5 0) base) = [.decrypt (.error .innerLength)] := by decide +kernel
/-- V-FR-6: the address byte is STX -/
theorem test_frameEncode : resultsOf (exec (.frameEncode 127 false [0x11]) base) =
    [.frameEncode [0x7F, 0x7F, 0x7F, 0x01, 0x11, 0x69, 0x8E]] := by decide +kernel
/-- V-FR-2: the sequence bit is bit 7 of the address byte -/
theorem test_frameEncode_seq : resultsOf (exec (.frameEncode 0 true [0x11]) base) =
    [.frameEncode [0x7F, 0x80, 0x01, 0x11, 0x65, 0x82]] := by decide +kernel
/-- The STUFF example of 95_test_vectors.md section 2.6 -/
theorem test_stuff : resultsOf (exec (.stuff 0x7F [0x00, 0x02, 0x7F, 0x7F, 0x08, 0x03]) base) =
    [.stuff [0x7F, 0x00, 0x02, 0x7F, 0x7F, 0x7F, 0x7F, 0x08, 0x03]] := by decide +kernel
/-- V-DF-1's last byte completes the frame -/
theorem test_rxByte :
    seen (fun t => (t.rx.ready, t.rx.buf, t.rx.total)) (exec (.rxByte 0x0A)
      { waiting (exchangeOf cmd07 2) with
        rx := ⟨.inFrame, false, false, [0x7F, 0x00, 0x01, 0xF0, 0x20], some 6, some 0⟩ }) =
      some (true, [0x7F, 0x00, 0x01, 0xF0, 0x20, 0x0A], some 6) := by decide +kernel
/-- V-DF-4's last byte discards it -/
theorem test_rxByte_crc :
    seen (fun t => (t.rx, t.log)) (exec (.rxByte 0x0B)
      { waiting (exchangeOf cmd07 2) with
        rx := ⟨.inFrame, false, false, [0x7F, 0x00, 0x01, 0xF0, 0x20], some 6, some 0⟩ }) =
      some (Spec.fresh 0, [.discardCrc [0x7F, 0x00, 0x01, 0xF0, 0x20, 0x0B]]) := by decide +kernel
/-- V-DF-14 -/
theorem test_rxReset :
    seen (fun t => t.rx) (exec (.rxReset 127)
      { base with rx := ⟨.inFrame, true, false, [0x7F, 0x01, 0xF0, 0x2F, 0x8C], some 245, some 127⟩ }) =
      some (Spec.fresh 127) := by decide +kernel
/-- V-ADM-3: the key check comes before the length check -/
theorem test_sendCommand_order :
    refusedOf (exec (.sendCommand ⟨0, true, none, 1, 500, List.replicate 300 0⟩) base) = [.keyAbsent] := by
  decide +kernel
/-- The frame of program P2, V-FR-3 -/
theorem test_sendCommand :
    seen (fun t => (t.txbuf, t.linkState, t.lock)) (exec (.sendCommand cmd07)
      { base with seq := base.seq.set 0 true }) =
      some ([0x7F, 0x80, 0x01, 0x07, 0x12, 0x02], .sending, .held) := by decide +kernel
/-- 70_reset_and_hazards.md R370 -/
theorem test_reset : seen (fun t => (t.lastTx, t.transportOpen, t.refused)) (exec .reset
    { base with lastTx := some 3, refused := [.keyAbsent] }) = some (none, false, []) := by decide +kernel
/-- A SEND_COMMAND that waits at `acquire LOCK` does not keep a RESET out; a NEGOTIATE does
(92_eei_decisions.md D52). -/
theorem test_reset_calls :
    seen (fun t => (t.refused, t.calls, t.transportOpen)) (exec .reset { base with calls := [.send cmd07] }) =
      some ([], [.send cmd07], false) ∧
    refusedOf (exec .reset { base with calls := [.send cmd07, .negotiation neg .resetCounter] }) =
      [.resetInExchange] := by decide +kernel
/-- 60_exceptions.md R341 -/
theorem test_time : seen (fun t => t.now) (exec (.time 12) base) = some 12 := by decide +kernel
/-- A failed OPEN leaves the transport closed (92_eei_decisions.md D37), also one that was open. -/
theorem test_open_fail : seen (fun t => (t.transportOpen, t.results)) (exec (.openPort [0x41])
    { base with draws := [0] }) = some (false, [.opened false]) := by decide +kernel
/-- 60_exceptions.md R343 -/
theorem test_open_ok : seen (fun t => (t.transportOpen, t.results)) (exec (.openPort [0x41])
    { State.reset with draws := [1] }) = some (true, [.opened true]) := by decide +kernel
/-- 60_exceptions.md R343 -/
theorem test_close : seen (fun t => t.transportOpen) (exec .closePort base) = some false := by
  decide +kernel
/-- 60_exceptions.md R345 -/
theorem test_download : seen (fun t => t.downloadActive) (exec (.download true) base) = some true := by
  decide +kernel
/-- Scenario W3: a SYNC resets the sequence bit. -/
theorem test_sync : seen (fun t => (t.txbuf, t.seq[0])) (exec (.sync 0 3 500)
    { base with seq := base.seq.set 0 true }) =
    some ([0x7F, 0x00, 0x01, 0x11, 0x66, 0x08], false) := by decide +kernel
/-- V-FR-9c -/
theorem test_setGenerator : seen (fun t => t.txbuf) (exec (.setGenerator 37 0 1 500)
    { base with seq := base.seq.set 0 true }) =
    some [0x7F, 0x80, 0x09, 0x4A, 0x25, 0, 0, 0, 0, 0, 0, 0, 0xB1, 0x57] := by decide +kernel
/-- Program P4's third frame -/
theorem test_setModulus : seen (fun t => t.txbuf) (exec (.setModulus 47 5 1 500) base) =
    some [0x7F, 0x05, 0x09, 0x4B, 0x2F, 0, 0, 0, 0, 0, 0, 0, 0x91, 0x11] := by decide +kernel
/-- Program P4's fourth frame -/
theorem test_requestKeyExchange : seen (fun t => t.txbuf) (exec (.requestKeyExchange 36 5 1 500)
    { base with seq := base.seq.set 5 true }) =
    some [0x7F, 0x85, 0x09, 0x4C, 0x24, 0, 0, 0, 0, 0, 0, 0, 0xB7, 0x12] := by decide +kernel
/-- Program P3's frame: an encrypted command -/
theorem test_otherCommand : seen (fun t => t.txbuf) (exec (.otherCommand 0x07 [] 0 true (some 5) 1 500)
    { base with seq := base.seq.set 0 true, draws := List.replicate 8 0 }) =
    some [0x7F, 0x80, 0x11, 0x7E, 0xB4, 0x14, 0x15, 0x09, 0xE6, 0xF3, 0xB6, 0xED, 0x9E, 0xE1, 0xB8,
      0x98, 0x21, 0xE0, 0xAE, 0x21, 0x25, 0xE3] := by decide +kernel
/-- Program P4's draws: the counter is reset and the SYNC comes next. -/
theorem test_negotiate : seen (fun t => (t.ctr[5], t.calls)) (exec (.negotiate 5 1 500)
    { base with ctr := base.ctr.set 5 7, draws := [47, 37, 27] }) =
    some (0, [.negotiation neg (.command .sync)]) := by decide +kernel
/-- 70_reset_and_hazards.md R383: refused, with nothing drawn and the counter kept. -/
theorem test_negotiate_download : seen (fun t => (t.refused, t.ctr[5], t.draws, t.calls))
    (exec (.negotiate 5 1 500)
      { base with downloadActive := true, ctr := base.ctr.set 5 7, draws := [47, 0, 27] }) =
    some ([.downloadActive], 7, [47, 0, 27], []) := by decide +kernel
/-- V-LNK-1 -/
theorem test_ok : seen (fun t => (t.rx.buf, t.results, t.seq[0])) (exec (.ok 0 [])
    (waiting (exchangeOf cmd07 2))) =
    some ([0x7F, 0x00, 0x01, 0xF0, 0x20, 0x0A], [.exchange cmd07 (.resp 0xF0) []], true) := by
  decide +kernel
/-- V-LNK-2 -/
theorem test_deviceBusy : seen (fun t => (t.rx.buf, t.results)) (exec (.deviceBusy 0x80 [])
    (waiting (exchangeOf cmd07 2))) =
    some ([0x7F, 0x80, 0x02, 0xF5, 0x03, 0x35, 0xBE], [.exchange cmd07 .busy [0x03]]) := by decide +kernel
/-- V-LNK-3 -/
theorem test_commandNotProcessed : seen (fun t => (t.rx.buf, t.results))
    (exec (.commandNotProcessed 0x80 [0x01]) (waiting (exchangeOf cmd07 2))) =
    some ([0x7F, 0x80, 0x02, 0xF5, 0x01, 0x3A, 0x3E], [.exchange cmd07 (.resp 0xF5) [0x01]]) := by
  decide +kernel
/-- 44_link_fsm.md R273 -/
theorem test_otherStatus : seen (fun t => (t.results, t.linkState)) (exec (.otherStatus 0xF2 0 [0xAA])
    (waiting (exchangeOf cmd07 2))) = some ([.exchange cmd07 (.resp 0xF2) [0xAA]], .idle) := by
  decide +kernel
/-- V-LNK-5 -/
theorem test_encryptedPacket : seen (fun t => (t.results, t.ctr[0]))
    (exec (.encryptedPacket 0x80 (packetF0.drop 1)) (waiting (exchangeOf cmdEnc 1))) =
    some ([.exchange cmdEnc (.resp 0xF0) []], 1) := by decide +kernel
/-- V-LNK-6 -/
theorem test_encryptedPacket_noKey : seen (fun t => (t.results, t.ctr[0]))
    (exec (.encryptedPacket 0x80 (packetF0.drop 1)) (waiting (exchangeOf cmd07 2))) =
    some ([.exchange cmd07 (.packetError .noKey) []], 0) := by decide +kernel

/-! ### For each obligation with hypotheses: what meets them, each clause at the edge of its range -/

/-- V-LNK-1's frame -/
def frameOk : List Byte := [0x7F, 0x00, 0x01, 0xF0, 0x20, 0x0A]

/-- V-FR-5's frame: an empty payload -/
def frameEmpty : List Byte := [0x7F, 0x00, 0x00, 0x0D, 0x80]

/-- The frame with the given payload at address 0, sequence bit 1 -/
def frameWith (p : List Byte) : List Byte := Spec.body Config.ssp 0x80 p

/-- A state that a NEGOTIATE waits in, between its steps. -/
def negotiating (stage : NegStage) : State := { base with calls := [.negotiation neg stage] }

/-- A state in which a host's SEND_COMMAND waits. -/
def queued (l : Lock) : State := { base with lock := l, calls := [.send cmd07] }

/-- A deframer inside a frame. -/
def inside (buf : List Byte) (total : Option Nat) (stuffed : Bool) : State :=
  { waiting (exchangeOf cmd07 2) with rx := ⟨.inFrame, stuffed, false, buf, total, some 0⟩ }

theorem witness_SingleBitErrorsDetected :
    (0x8005 : Word16) ≠ 0 ∧ 0 < 8 * [(0x00 : Byte)].length ∧ 7 < 8 * [(0x00 : Byte)].length := by decide

theorem witness_EnvelopeBuilt :
    233 < (List.replicate 234 (0 : Byte)).length ∧ (List.replicate 233 (0 : Byte)).length ≤ 233 ∧
      ([] : List Byte).length = Spec.padLength 233 ∧ (List.replicate 8 (0 : Byte)).length = Spec.padLength 1 := by
  decide +kernel

theorem witness_EncryptBuilt :
    233 < (List.replicate 234 (0 : Byte)).length ∧ (List.replicate 233 (0 : Byte)).length ≤ 233 ∧
      ([] : List Byte).length = Spec.padLength 233 ∧ (List.replicate 9 (0 : Byte)).length = Spec.padLength 0 := by
  decide +kernel

theorem opens_of {s : State} {p : List Byte} {k : Word64} {ctr : Word32}
    {r : Except PacketReason (List Byte)} (h : decryptPayload s.cfg p k ctr = r) :
    Spec.Opens s p k ctr r := by subst h; rfl

/-- V-DEC-6, V-DEC-5, V-DEC-4, V-DEC-2, V-DEC-8 and V-DEC-1 answer each clause's outcome. -/
theorem witness_DecryptChecksInOrder :
    Spec.Opens base [0x7E] 5 0 (.error .length) ∧
    Spec.Opens base (0x7E :: List.replicate 15 0) 5 0 (.error .length) ∧
    Spec.Opens base (packetF0.set 5 0) 5 0 (.error .crc) ∧
    Spec.Opens base packetF0 5 1 (.error .counter) ∧
    Spec.Opens base [0x7E, 0x05, 0x37, 0xEE, 0xE4, 0x29, 0xFF, 0x6F, 0xA4, 0x6C, 0x07, 0x7D, 0x3A,
      0xD8, 0x30, 0x80, 0x78] 5 0 (.error .innerLength) ∧
    Spec.Opens base packetF0 5 0 (.ok [0xF0]) := by
  refine ⟨opens_of ?_, opens_of ?_, opens_of ?_, opens_of ?_, opens_of ?_, opens_of ?_⟩ <;>
    decide +kernel

theorem witness_DecryptOpensEncrypt :
    (List.replicate 233 (0 : Byte)).length ≤ 233 ∧ base.cfg = State.reset.cfg ∧
      (1 : Word32) ≠ 0 := ⟨by decide +kernel, rfl, by decide⟩

theorem witness_FrameEncodeBuilds :
    127 < (128 : Byte).toNat ∧ (127 : Byte).toNat ≤ 127 ∧
      250 < (List.replicate 251 (0 : Byte)).length ∧ (List.replicate 250 (0 : Byte)).length ≤ 250 := by
  decide +kernel

theorem witness_FrameRoundTrip :
    (List.replicate 250 (0x7F : Byte)).length ≤ 250 ∧
      (waiting (exchangeOf cmd07 2)).linkState = .awaitingResponse ∧
      (waiting (exchangeOf cmd07 2)).transportOpen = true := by decide +kernel

theorem witness_FrameSurvivesGarbage :
    (waiting (exchangeOf cmd07 2)).rx.expected = some 0 ∧
      (waiting (exchangeOf cmd07 2)).rx.ready = false ∧
      (waiting (exchangeOf cmd07 2)).rx.state = .waitStart ∧
      (inside [0x7F, 0x00, 0x05] (some 10) false).rx.expected = some 0 ∧
      (inside [0x7F, 0x00, 0x05] (some 10) false).rx.ready = false ∧
      (inside [0x7F, 0x00, 0x05] (some 10) false).rx.stuffed = false ∧
      Spec.addrByte false 0 ≠ (inside [0x7F, 0x00, 0x05] (some 10) false).cfg.stx ∧
      (inside [0x7F, 0x00, 0x05] (some 10) false).linkState = .awaitingResponse ∧
      (inside [0x7F, 0x00, 0x05] (some 10) false).transportOpen = true := by decide +kernel

theorem witness_RxByteDropped :
    (holding (exchangeOf cmd07 2) frameOk).rx.ready = true ∧ base.rx.expected = none ∧
      base.linkState ≠ .awaitingResponse ∧ State.reset.transportOpen = false := by decide +kernel

/-- The deframer's invariant holds of a deframer just reset, and inside a frame. -/
theorem inv_fresh : DeframerInv Config.ssp (Spec.fresh 0) := by
  constructor <;> decide +kernel

theorem inv_inside (stuffed : Bool) :
    DeframerInv Config.ssp (inside [0x7F, 0x00, 0x01, 0xF0, 0x20] (some 6) stuffed).rx := by
  cases stuffed <;> constructor <;> decide +kernel

theorem inv_short : DeframerInv Config.ssp (inside [0x7F] none false).rx := by
  constructor <;> decide +kernel

/-- The states of each clause: before a frame; inside one, with and without STUFF; at the second byte; at
the last byte of a frame for another address, with a good CRC and with a bad one. -/
theorem witness_RxByteFollowsDeframer :
    DeframerInv (waiting (exchangeOf cmd07 2)).cfg (waiting (exchangeOf cmd07 2)).rx ∧
    DeframerInv Config.ssp (inside [0x7F, 0x00, 0x01, 0xF0, 0x20] (some 6) true).rx ∧
    DeframerInv Config.ssp (inside [0x7F] none false).rx ∧
    (waiting (exchangeOf cmd07 2)).rx.expected = some 0 ∧
    ([0x7F, 0x00] : List Byte).length < 3 ∧
    ([0x7F, 0x00, 0x01, 0xF0, 0x20] : List Byte).length < (1 : Byte).toNat + 5 ∧
    frameOk.length = (1 : Byte).toNat + 5 ∧ (0x01 : Byte).setWidth 7 ≠ (0 : Addr) ∧
    (0x80 : Byte).setWidth 7 = (0 : Addr) ∧
    frameOk.drop 4 = Spec.crcTail Config.ssp ((frameOk.drop 1).take 3) ∧
    [0x20, 0x0B] ≠ Spec.crcTail Config.ssp ((frameOk.drop 1).take 3) :=
  ⟨inv_fresh, inv_inside true, inv_short, by decide +kernel⟩

theorem witness_DeframerInvKept :
    DeframerInv (inside [0x7F, 0x00, 0x01, 0xF0, 0x20] (some 6) false).cfg
      (inside [0x7F, 0x00, 0x01, 0xF0, 0x20] (some 6) false).rx ∧
    ∃ t, step (Spec.moved (.operation .operation [0x0B, 0x0A])
      (inside [0x7F, 0x00, 0x01, 0xF0, 0x20] (some 6) false)) = .next t ∧ t.rx.ready = true :=
  ⟨inv_inside false, _, rfl, by decide +kernel⟩

/-- V-ADM-1 to V-ADM-5, V-ADM-7 -/
theorem witness_SendRefusedInOrder :
    base.lock = .free ∧ ({ base with downloadActive := true } : State).downloadActive = true ∧
    base.downloadActive = false ∧ 127 < (128 : Byte).toNat ∧ (127 : Byte).toNat ≤ 127 ∧
    ((⟨0, true, none, 1, 500, []⟩ : Command).enc = true ∧
      (⟨0, true, none, 1, 500, []⟩ : Command).key = none) ∧
    250 < (List.replicate 251 (0 : Byte)).length ∧ 233 < (List.replicate 234 (0 : Byte)).length ∧
    cmdEnc.enc = true ∧ cmdEnc.key ≠ none ∧ cmdEnc.cmd.length ≤ 233 ∧
    ({ base with ctr := base.ctr.set 0 0xFFFFFFFF } : State).ctr[slot (cmdEnc.addr.setWidth 7)] =
      0xFFFFFFFF := by decide +kernel

/-- V-ADM-8 at address 127, with 250 bytes -/
theorem witness_SendPlainCompiles :
    base.lock = .free ∧ base.downloadActive = false ∧
      (⟨127, false, none, 1, 500, List.replicate 250 0⟩ : Command).addr.toNat ≤ 127 ∧
      (⟨127, false, none, 1, 500, List.replicate 250 0⟩ : Command).enc = false ∧
      (⟨127, false, none, 1, 500, List.replicate 250 0⟩ : Command).cmd.length ≤ 250 := by decide +kernel

/-- V-ADM-6 -/
theorem witness_SendEncryptedCompiles :
    base.lock = .free ∧ base.downloadActive = false ∧
      (⟨127, true, some 5, 1, 500, List.replicate 233 0⟩ : Command).addr.toNat ≤ 127 ∧
      (⟨127, true, some 5, 1, 500, List.replicate 233 0⟩ : Command).enc = true ∧
      (⟨127, true, some 5, 1, 500, List.replicate 233 0⟩ : Command).key = some 5 ∧
      (⟨127, true, some 5, 1, 500, List.replicate 233 0⟩ : Command).cmd.length ≤ 233 ∧
      ({ base with ctr := base.ctr.set 127 0xFFFFFFFE } : State).ctr[slot 127] ≠ 0xFFFFFFFF := by
  decide +kernel

theorem witness_SendWaitsForLock :
    (waiting (exchangeOf cmd07 2)).lock = .held ∧ legalConfig (queued .free).cfg = true ∧
      (queued .free).calls[0]? = some (.send cmd07) ∧ (queued .free).lock = .free ∧
      (queued .held).calls[0]? = some (.send cmd07) ∧ (queued .held).lock = .held := by decide +kernel

theorem witness_WireCommandsCompile :
    base.lock = .free ∧ base.downloadActive = false ∧ (127 : Byte).toNat ≤ 127 ∧
      (List.replicate 249 (0 : Byte)).length ≤ 249 ∧ (List.replicate 232 (0 : Byte)).length ≤ 232 ∧
      base.ctr[slot ((127 : Byte).setWidth 7)] ≠ 0xFFFFFFFF := by decide +kernel

/-- The spacing is just met: the last write was at 0 and it is 200; at 199 it is not. A write is pending;
no exchange is in progress; no write is pending. -/
theorem witness_WriteIssuedAndAnswered :
    legalConfig (sending (exchangeOf cmd07 2)).cfg = true ∧
      (sending (exchangeOf cmd07 2)).cur = some (exchangeOf cmd07 2) ∧
      (sending (exchangeOf cmd07 2)).linkState = .sending ∧
      (sending (exchangeOf cmd07 2)).write = .none ∧
      (∀ l, (sending (exchangeOf cmd07 2)).lastTx = some l →
        l + (sending (exchangeOf cmd07 2)).cfg.minSpacing ≤ (sending (exchangeOf cmd07 2)).now) ∧
      (sending (exchangeOf cmd07 2)).transportOpen = true ∧
      ({ sending (exchangeOf cmd07 2) with transportOpen := false } : State).transportOpen = false ∧
      ({ sending (exchangeOf cmd07 2) with now := 199 } : State).lastTx = some 0 ∧
      199 < 0 + (sending (exchangeOf cmd07 2)).cfg.minSpacing ∧
      ({ sending (exchangeOf cmd07 2) with write := .pending false } : State).write ≠ .none ∧
      base.cur = none ∧ base.write = .none :=
  ⟨by decide +kernel, rfl, rfl, rfl, fun l h => by cases h; decide, rfl, rfl, rfl, by decide +kernel,
    nofun, rfl, rfl⟩

theorem witness_SpacingRespected :
    ∃ t, step (Spec.moved .exchange (sending (exchangeOf cmd07 2))) = .next t ∧
      t.sent = [[0x7F, 0x80, 0x01, 0x07, 0x12, 0x02]] := ⟨_, rfl, by decide +kernel⟩

/-- The deadline just reached, with one, none and two attempts left. -/
theorem witness_TimeoutRetries :
    legalConfig (waiting (exchangeOf cmd07 2)).cfg = true ∧
      ({ waiting (exchangeOf cmd07 2) with now := 500 } : State).linkState = .awaitingResponse ∧
      ({ waiting (exchangeOf cmd07 2) with now := 500 } : State).rx.ready = false ∧
      ({ waiting (exchangeOf cmd07 2) with now := 500 } : State).transportOpen = true ∧
      ({ waiting (exchangeOf cmd07 2) with now := 500 } : State).deadline = some 500 ∧
      500 ≤ ({ waiting (exchangeOf cmd07 2) with now := 500 } : State).now ∧
      (exchangeOf cmd07 1).retriesLeft ≤ 1 ∧ (exchangeOf cmd07 0).retriesLeft ≤ 1 ∧
      1 < (exchangeOf cmd07 2).retriesLeft := by decide +kernel

theorem witness_WaitBranches :
    legalConfig (waiting (exchangeOf cmd07 2)).cfg = true ∧
      (waiting (exchangeOf cmd07 2)).cur = some (exchangeOf cmd07 2) ∧
      (waiting (exchangeOf cmd07 2)).linkState = .awaitingResponse ∧
      (waiting (exchangeOf cmd07 2)).rx.ready = false ∧
      (waiting (exchangeOf cmd07 2)).transportOpen = true ∧
      ({ waiting (exchangeOf cmd07 2) with transportOpen := false } : State).transportOpen = false ∧
      (∀ d, (waiting (exchangeOf cmd07 2)).deadline = some d →
        ({ waiting (exchangeOf cmd07 2) with now := 499 } : State).now < d) ∧
      (holding (exchangeOf cmd07 2) frameOk).rx.ready = true ∧
      ({ holding (exchangeOf cmd07 2) frameOk with now := 500, draws := [0] } : State).draws = [0] ∧
      0 % 2 = 0 ∧ 1 % 2 = 1 ∧ (exchangeOf cmd07 1).retriesLeft ≤ 1 ∧
      1 < (exchangeOf cmd07 2).retriesLeft :=
  ⟨by decide +kernel, rfl, rfl, rfl, rfl, rfl, fun d h => by cases h; decide, rfl, rfl, rfl, rfl,
    by decide, by decide⟩

/-- A ready frame before its deadline: V-LNK-4, V-LNK-1, V-LNK-6, and the packets of V-DEC-2, V-DEC-9 and
V-DEC-1. -/
theorem witness_ResponseDecoded :
    legalConfig (holding (exchangeOf cmdEnc 1) frameOk).cfg = true ∧
      (∀ d, (holding (exchangeOf cmdEnc 1) frameOk).deadline = some d →
        (holding (exchangeOf cmdEnc 1) frameOk).now < d) ∧
      Spec.payload (holding (exchangeOf cmd07 2) frameEmpty).rx.buf = [] ∧
      Spec.payload (holding (exchangeOf cmd07 2) frameOk).rx.buf = [0xF0] ∧
      Spec.payload (holding (exchangeOf cmd07 2) (frameWith packetF0)).rx.buf = packetF0 ∧
      (exchangeOf cmd07 2).key = none ∧ (exchangeOf cmdEnc 1).key = some 5 ∧
      Spec.Opens { base with ctr := base.ctr.set 0 1 } packetF0 5
        ({ base with ctr := base.ctr.set 0 1 } : State).ctr[slot 0] (.error .counter) ∧
      Spec.Opens base packetEmpty 5 base.ctr[slot 0] (.ok []) ∧
      Spec.Opens base packetF0 5 base.ctr[slot 0] (.ok [0xF0]) :=
  ⟨by decide +kernel, fun d h => by cases h; decide +kernel, by decide +kernel, by decide +kernel,
    by decide +kernel, rfl, rfl, opens_of (by decide +kernel), opens_of (by decide +kernel),
    opens_of (by decide +kernel)⟩

theorem witness_ResponseRowsAnswer :
    (waiting (exchangeOf cmd07 2)).cfg.okCode = 0xF0 ∧
      (waiting (exchangeOf cmd07 2)).cfg.notProcessedCode = 0xF5 ∧
      (waiting (exchangeOf cmd07 2)).cfg.busySubreason = 3 ∧
      (waiting (exchangeOf cmd07 2)).cfg.encMarker = 0x7E ∧
      (waiting (exchangeOf cmd07 2)).cur = some (exchangeOf cmd07 2) ∧
      (waiting (exchangeOf cmd07 2)).linkState = .awaitingResponse ∧
      (waiting (exchangeOf cmd07 2)).transportOpen = true ∧
      (exchangeOf cmd07 2).addr = (0x80 : Byte).setWidth 7 ∧
      (waiting (exchangeOf cmd07 2)).rx = Spec.fresh ((0x80 : Byte).setWidth 7) ∧
      (List.replicate 254 (0 : Byte)).length ≤ 254 ∧ (List.replicate 253 (0 : Byte)).length ≤ 253 ∧
      ([0x02] : List Byte).head? ≠ some 3 ∧ (0xF4 : Byte) ≠ 0xF0 ∧ (0xF4 : Byte) ≠ 0xF5 ∧
      (0xF4 : Byte) ≠ 0x7E := by decide +kernel

theorem witness_EncryptedPacketAnswers :
    (waiting (exchangeOf cmdEnc 1)).cur = some (exchangeOf cmdEnc 1) ∧
      (waiting (exchangeOf cmdEnc 1)).rx = Spec.fresh ((0x80 : Byte).setWidth 7) ∧
      (List.replicate 254 (0 : Byte)).length ≤ 254 ∧ (exchangeOf cmd07 2).key = none ∧
      (exchangeOf cmdEnc 1).key = some 5 ∧
      Spec.Opens (waiting (exchangeOf cmdEnc 1)) (0x7E :: packetF0.drop 1) 5
        (waiting (exchangeOf cmdEnc 1)).ctr[slot (exchangeOf cmdEnc 1).addr] (.ok [0xF0]) ∧
      Spec.Opens (waiting (exchangeOf cmdEnc 1)) (0x7E :: packetEmpty.drop 1) 5
        (waiting (exchangeOf cmdEnc 1)).ctr[slot (exchangeOf cmdEnc 1).addr] (.ok []) ∧
      Spec.Opens (waiting (exchangeOf cmdEnc 1)) [0x7E] 5
        (waiting (exchangeOf cmdEnc 1)).ctr[slot (exchangeOf cmdEnc 1).addr] (.error .length) :=
  ⟨rfl, rfl, by decide +kernel, rfl, rfl, opens_of (by decide +kernel), opens_of (by decide +kernel),
    opens_of (by decide +kernel)⟩

/-- Inside a frame after its start marker, which takes the arriving one for a new start and then restarts;
with a frame ready already; and with the frame for another address, its payload the longest. -/
theorem witness_ResponseRowsAreFrames :
    Spec.RowOf (inside [0x7F] none false).cfg 0x80 (.ok 0x80 []) [0xF0] ∧
      legalConfig (inside [0x7F] none false).cfg = true ∧ (inside [0x7F] none false).rx.ready = false ∧
      seen (fun t => (t.rx.ready, t.cur.isSome))
        (feed (Spec.stuffed Config.ssp (Spec.body Config.ssp 0x80 [0xF0])) (inside [0x7F] none false)) =
          some (true, true) ∧
      (holding (exchangeOf cmd07 2) frameOk).rx.ready = true ∧
      Spec.RowOf (waiting (exchangeOf cmd07 2)).cfg 0x81 (.ok 0x81 (List.replicate 254 0))
        (0xF0 :: List.replicate 254 0) ∧
      (waiting (exchangeOf cmd07 2)).rx = Spec.fresh 0 ∧
      (waiting (exchangeOf cmd07 2)).linkState = .awaitingResponse ∧
      (waiting (exchangeOf cmd07 2)).transportOpen = true ∧ (0x81 : Byte).setWidth 7 ≠ (0 : Addr) ∧
      (0xF0 :: List.replicate 254 (0 : Byte)).length ≤ 255 :=
  ⟨.ok _, by decide +kernel, rfl, by decide +kernel, rfl, .ok _, rfl, rfl, rfl,
    by decide, by decide +kernel⟩

theorem witness_ResponseRowsUnheard :
    (holding (exchangeOf cmd07 2) frameOk).rx.ready = true ∧ base.rx.expected = none ∧
      base.linkState ≠ .awaitingResponse ∧ State.reset.transportOpen = false := by decide +kernel

/-- The link's invariant before, in and at the wait of an exchange. -/
theorem inv_base : LinkInv base := by constructor <;> decide +kernel
theorem inv_sending : LinkInv (sending (exchangeOf cmd07 2)) := by constructor <;> decide +kernel
theorem inv_timedOut : LinkInv { waiting (exchangeOf cmd07 1) with now := 500 } := by
  constructor <;> decide +kernel

theorem inv_holding : LinkInv (holding (exchangeOf cmd07 2) frameOk) := by
  constructor <;> decide +kernel

/-- The timeout path is taken with no frame ready, as the agent's own move, and by the tie's draw. -/
theorem witness_TransmissionBudget_timesOut :
    legalConfig base.cfg = true ∧
      Spec.AgentMoves { waiting (exchangeOf cmd07 1) with now := 500 } ∧
      Spec.TimesOut { waiting (exchangeOf cmd07 1) with now := 500 } ∧
      Spec.AgentMoves (Spec.moved .exchange
        { holding (exchangeOf cmd07 2) frameOk with now := 500, draws := [1] }) ∧
      Spec.TimesOut { holding (exchangeOf cmd07 2) frameOk with now := 500, draws := [1] } :=
  ⟨by decide +kernel, .inr ⟨rfl, rfl⟩, ⟨rfl, rfl, ⟨500, rfl, Nat.le_refl _⟩, .inl rfl⟩, .inl ⟨_, rfl⟩,
    ⟨rfl, rfl, ⟨500, rfl, Nat.le_refl _⟩, .inr rfl⟩⟩

/-- An exchange starts, a host's and a NEGOTIATE's, issues its write, and times out. -/
theorem witness_TransmissionBudget :
    (LinkInv base ∧ base.cur = none ∧
      ∃ t y, step (Spec.moved (.operation .operation (encode (.sendCommand cmd07))) base) = .next t ∧
        t.cur = some y) ∧
    (LinkInv (negotiating (.command .sync)) ∧ (negotiating (.command .sync)).cur = none ∧
      ∃ t y, step (Spec.moved (.call 0) (negotiating (.command .sync))) = .next t ∧ t.cur = some y ∧
        y.owner = .negotiation neg .sync) ∧
    (LinkInv (sending (exchangeOf cmd07 2)) ∧
      ∃ t y, step (Spec.moved .exchange (sending (exchangeOf cmd07 2))) = .next t ∧ t.cur = some y) ∧
    (LinkInv { waiting (exchangeOf cmd07 1) with now := 500 } ∧
      ∃ t, step (Spec.moved .exchange { waiting (exchangeOf cmd07 1) with now := 500 }) = .next t ∧
        t.cur = none ∧ t.results = [.exchange cmd07 .timeout []]) :=
  ⟨⟨inv_base, rfl, _, _, rfl, rfl⟩, ⟨by constructor <;> decide +kernel, rfl, _, _, rfl, rfl, rfl⟩,
    ⟨inv_sending, _, _, rfl, rfl⟩, inv_timedOut, _, rfl, rfl, rfl⟩

/-- Two attempts, the first write at once as the spacing allows, the second 200 ms after it and later. -/
theorem witness_SilentExchangeTimesOut :
    legalConfig (sending (exchangeOf cmd07 2)).cfg = true ∧
      (sending (exchangeOf cmd07 2)).cur = some (exchangeOf cmd07 2) ∧
      (exchangeOf cmd07 2).owner = .host cmd07 ∧
      (sending (exchangeOf cmd07 2)).linkState = .sending ∧
      (sending (exchangeOf cmd07 2)).write = .none ∧
      (sending (exchangeOf cmd07 2)).transportOpen = true ∧
      [(200, 700), (700, 1200)].length = max (exchangeOf cmd07 2).retriesLeft 1 ∧
      [(200, 700)].length = max (exchangeOf cmd07 0).retriesLeft 1 ∧
      Spec.Paced (sending (exchangeOf cmd07 2)).cfg.minSpacing (exchangeOf cmd07 2).timeout
        (sending (exchangeOf cmd07 2)).lastTx (sending (exchangeOf cmd07 2)).now
        [(200, 700), (700, 1200)] :=
  ⟨by decide +kernel, rfl, rfl, rfl, rfl, rfl, rfl, rfl, by decide +kernel,
    fun l h => by cases h; decide, by decide +kernel, by decide +kernel,
    fun l h => by cases h; decide, by decide +kernel, trivial⟩

/-- An exchange ends without a response, and with one. -/
theorem witness_ExchangeEndsOnce :
    (LinkInv { waiting (exchangeOf cmd07 1) with now := 500 } ∧
      ∃ t, step (Spec.moved .exchange { waiting (exchangeOf cmd07 1) with now := 500 }) = .next t ∧
        t.cur = none) ∧
    LinkInv (holding (exchangeOf cmd07 2) frameOk) ∧
      ∃ t, step (Spec.moved .exchange (holding (exchangeOf cmd07 2) frameOk)) = .next t ∧
        t.cur = none := ⟨⟨inv_timedOut, _, rfl, rfl⟩, inv_holding, _, rfl, rfl⟩

theorem witness_LinkInvKept :
    LinkInv (sending (exchangeOf cmd07 2)) ∧
      ∃ t, step (Spec.moved .exchange (sending (exchangeOf cmd07 2))) = .next t := ⟨inv_sending, _, rfl⟩

theorem witness_ExchangeInvKept :
    ExchangeInv (sending (exchangeOf cmdEnc 1)) ∧
      ∃ t, step (Spec.moved .exchange (sending (exchangeOf cmdEnc 1))) = .next t :=
  ⟨⟨fun _ h => by cases h; decide, fun _ h _ => by cases h; decide +kernel,
    fun _ h => by cases h; decide +kernel, by decide +kernel⟩, _, rfl⟩

theorem witness_TableInvKept :
    TableInv base ∧ ∃ t, step (Spec.moved (.operation .operation (encode (.sendCommand cmd07))) base) =
      .next t :=
  ⟨fun i _ => by simp [base, State.reset, State.resetWith], _, rfl⟩

theorem witness_TimeInvKept :
    TimeInv (sending (exchangeOf cmd07 2)) ∧
      ∃ t, step (Spec.moved .exchange (sending (exchangeOf cmd07 2))) = .next t ∧ t.lastTx = some 200 :=
  ⟨fun _ h => by cases h; decide, _, rfl, rfl⟩

/-- V-LNK-5 counts; a NEGOTIATE resets. -/
theorem witness_CounterChanges :
    (∃ t, step (Spec.moved .exchange (holding (exchangeOf cmdEnc 1) (frameWith packetF0))) = .next t ∧
      t.ctr[slot 0] ≠ (holding (exchangeOf cmdEnc 1) (frameWith packetF0)).ctr[slot 0]) ∧
    ∃ t, step (Spec.moved (.call 0)
        { negotiating .resetCounter with ctr := base.ctr.set 5 7 }) = .next t ∧
      t.ctr[slot 5] ≠ ({ negotiating .resetCounter with ctr := base.ctr.set 5 7 } : State).ctr[slot 5] :=
  ⟨⟨_, rfl, by decide +kernel⟩, _, rfl, by decide +kernel⟩

/-- A decoded response toggles; a SYNC resets. -/
theorem witness_SequenceBitChanges :
    (∃ t, step (Spec.moved .exchange (holding (exchangeOf cmd07 2) frameOk)) = .next t ∧
      t.seq[slot 0] ≠ (holding (exchangeOf cmd07 2) frameOk).seq[slot 0]) ∧
    ∃ t, step (Spec.moved (.operation .command (encode (.sync 0 3 500)))
        { base with seq := base.seq.set 0 true }) = .next t ∧
      t.seq[slot 0] ≠ ({ base with seq := base.seq.set 0 true } : State).seq[slot 0] :=
  ⟨⟨_, rfl, by decide +kernel⟩, _, rfl, by decide +kernel⟩

theorem witness_ConfigurationFixed :
    ∃ t, step (Spec.moved (.operation .operation (encode .reset)) base) = .next t ∧
      t.transportOpen = false := ⟨_, rfl, rfl⟩

theorem witness_RefusalsStick :
    (∃ t, step (Spec.moved .exchange { sending (exchangeOf cmd07 2) with refused := [.keyAbsent] }) =
      .next t ∧ t.refused = [.keyAbsent]) ∧
    ∃ t, step (Spec.moved (.operation .operation (encode .reset)) { base with refused := [.keyAbsent] }) =
      .next t ∧ t.refused = [] ∧
      Spec.ResetNext (Spec.moved (.operation .operation (encode .reset)) base) :=
  ⟨⟨_, rfl, rfl⟩, _, rfl, rfl, _, _, _, rfl, by decide +kernel⟩

/-- No call, a waiting SEND_COMMAND, an exchange, a NEGOTIATE. -/
theorem witness_ResetSetsEveryElement :
    legalConfig base.cfg = true ∧ base.lock = .free ∧ base.linkState = .idle ∧ base.calls = [] ∧
      (queued .free).lock = .free ∧ (queued .free).linkState = .idle ∧
      (∀ n stage, Call.negotiation n stage ∉ (queued .free).calls) ∧
      (sending (exchangeOf cmd07 2)).lock = .held ∧
      (sending (exchangeOf cmd07 2)).linkState ≠ .idle ∧
      Call.negotiation neg (.command .sync) ∈ (negotiating (.command .sync)).calls :=
  ⟨by decide +kernel, rfl, rfl, rfl, rfl, rfl, fun _ _ h => by simp [queued] at h, rfl, nofun,
    .head _⟩

theorem witness_TimeAdvances :
    (sending (exchangeOf cmd07 2)).now ≤ 200 ∧ 199 < (sending (exchangeOf cmd07 2)).now := by
  decide +kernel

theorem witness_OpenDraws :
    ({ base with draws := [1] } : State).draws = (if true = true then 1 else 0) :: [] ∧
      ({ base with draws := [0] } : State).draws = (if false = true then 1 else 0) :: [] := by
  decide +kernel

/-- A write under way as the transport closes, with the exchange it belongs to; and an OPEN answered ok
after the CLOSE. -/
theorem witness_CloseDooms :
    ∃ t u, exec .closePort { sending (exchangeOf cmd07 2) with write := .pending false, draws := [1] } =
        .next t ∧
      exec (.openPort [0x41]) t = .next u ∧ u.transportOpen = true ∧
      legalConfig (sending (exchangeOf cmd07 2)).cfg = true ∧
      (sending (exchangeOf cmd07 2)).cur = some (exchangeOf cmd07 2) ∧
      Write.pending false ≠ .none := ⟨_, _, rfl, rfl, rfl, by decide +kernel, rfl, nofun⟩

theorem witness_DownloadSets : true = true ∧ base.lock = .free ∧ (127 : Byte).toNat ≤ 127 := by
  decide +kernel

theorem witness_NegotiateRefusesAddress : 127 < (128 : Byte).toNat := by decide

/-- The widest draws, and a generator of 0. -/
theorem witness_NegotiateStarts :
    legalConfig base.cfg = true ∧ (127 : Byte).toNat ≤ 127 ∧ base.downloadActive = false ∧
      ({ base with draws := [2 ^ 64 - 1, 2 ^ 64 - 2, 2 ^ 64 - 1] } : State).draws =
        [2 ^ 64 - 1, 2 ^ 64 - 2, 2 ^ 64 - 1] ∧
      2 ^ 64 - 1 < 2 ^ base.cfg.primeBits ∧ 2 ^ 64 - 2 < 2 ^ base.cfg.primeBits ∧
      2 ^ 64 - 1 ≠ 2 ^ 64 - 2 ∧ 2 ^ 64 - 1 < base.cfg.secretBound ∧
      min (2 ^ 64 - 1) (2 ^ 64 - 2) ≠ 0 ∧ min 0 5 = 0 ∧ base.lock = .free ∧
      (waiting (exchangeOf cmd07 2)).lock = .held := by decide +kernel

/-- The refusals at the edge of the address, a generator of 0 and one that is not, and an equal pair. -/
theorem witness_NegotiateDrawsInRange :
    legalConfig base.cfg = true ∧ 127 < (128 : Byte).toNat ∧ (127 : Byte).toNat ≤ 127 ∧
      ({ base with downloadActive := true } : State).downloadActive = true ∧
      base.downloadActive = false ∧
      ({ base with draws := [47, 0, 27] } : State).drawNegotiation.1.g = 0 ∧
      ({ base with draws := [47, 37, 27] } : State).drawNegotiation.1.g ≠ 0 ∧
      5 % 2 ^ base.cfg.primeBits = (2 ^ 64 + 5) % 2 ^ base.cfg.primeBits ∧
      ∃ t n stage, exec (.negotiate 5 1 500) { base with draws := [47, 37, 27] } = .next t ∧
        t.calls = base.calls ++ [.negotiation n stage] :=
  ⟨by decide +kernel, by decide, by decide, rfl, rfl, by decide +kernel, by decide +kernel,
    by decide +kernel, _, neg, .command .sync, rfl, by decide +kernel⟩

theorem witness_NegotiationAdvances :
    legalConfig base.cfg = true ∧
      (∀ stage, (negotiating stage).calls[0]? = some (.negotiation neg stage)) ∧
      (∀ stage, (negotiating stage).lock = .free) ∧
      (∀ stage, (negotiating stage).downloadActive = false) ∧ neg.addr.toNat ≤ 127 ∧
      ({ negotiating .resetCounter with lock := .held } : State).lock = .held ∧
      ({ negotiating (.command .sync) with downloadActive := true } : State).downloadActive = true ∧
      (9 : Word64) ≠ 0 ∧ neg.m ≠ 0 :=
  ⟨by decide +kernel, fun _ => rfl, fun _ => rfl, fun _ => rfl, by decide, rfl, rfl, by decide,
    by decide⟩

/-- Program P4: the device's secret is 13. -/
theorem witness_NegotiatedKeysAgree :
    legalConfig base.cfg = true ∧
      (negotiating (.derive 9)).calls[0]? = some (.negotiation neg (.derive 9)) ∧ neg.m ≠ 0 ∧
      (9 : Word64) ≠ 0 ∧ neg.a.toNat = neg.g.toNat ^ neg.r.toNat % neg.m.toNat ∧
      (9 : Word64).toNat = neg.g.toNat ^ 13 % neg.m.toNat := by decide +kernel

theorem witness_DecodeEncode :
    (Instr.commandNotProcessed 0 (List.replicate 254 0)).wf = true ∧
      (Instr.otherCommand 0x07 [] 0 true (some 5) 1 500).wf = true ∧ Instr.reset.wf = true := by
  decide +kernel

/-- A row, a message cut short, and the reserved selectors at the edges of their ranges. -/
theorem witness_StepRunsDecoded :
    (Spec.moved (.operation .operation [0x0E]) base).events = [.operation .operation [0x0E]] ∧
      decode .operation [0x0E] = .ok .reset ∧ legalConfig base.cfg = true ∧
      decode .response [] = .error .empty ∧ decode .operation [0x0B] = .error .truncated ∧
      (0x14 ≤ (0x14 : Byte).toNat ∧ 0x14 ≤ (0xFF : Byte).toNat) ∧
      ¬((0x13 : Byte) = 0x00 ∨ (0x13 : Byte) = 0x0F ∨ 0x14 ≤ (0x13 : Byte).toNat) ∧
      legalConfig { base.cfg with secretBound := 0 } = false := by decide +kernel

/-- A configuration that breaks each constraint at its edge; and a step that only keeps an old
BAD_CONFIG. -/
theorem witness_BadConfigurationRefused :
    ¬((0x7F : Byte) ≠ Config.ssp.stx) ∧ ¬((0 : Word16) ≠ 0) ∧ ¬(1 ≤ 0) ∧ ¬(2 ^ 64 + 1 ≤ 2 ^ 64) ∧
      ¬(2 ≤ 1) ∧ ¬(65 ≤ 64) ∧ Config.ssp.encMarker ≠ Config.ssp.stx ∧ Config.ssp.crcPoly ≠ 0 ∧
      (1 ≤ Config.ssp.secretBound ∧ Config.ssp.secretBound ≤ 2 ^ 64) ∧
      (2 ≤ Config.ssp.primeBits ∧ Config.ssp.primeBits ≤ 64) ∧
      ∃ t, step { base with refused := [.badConfig] } = .next t ∧ RefuseReason.badConfig ∈ t.refused :=
  ⟨by decide, by decide, by decide, by decide, by decide, by decide, by decide, by decide,
    by decide +kernel, by decide, _, rfl, by decide +kernel⟩

end Sys2Proof.Tests
end

section
/-! SUPPORT. The CRC's two forms agree bit by bit (spec/40_crc.md R140, R142), and what CRC16 and CRC_CHECK
answer (R146, R148). -/

namespace Sys2Proof.Machine

open Sys2Proof

/-! ### The bit-serial and the high-byte-fold form -/

/-- Data XORed onto the register in advance: its top bit takes part in the shift as the data bit of R140, and
the rest waits one place further up. -/
theorem crcShift_xor (poly r d : Word16) :
    Spec.crcShift poly (r ^^^ d) = crcBit poly r d.msb ^^^ d <<< 1 := by
  have htop : (r ^^^ d).getLsbD 15 = (r.msb ^^ d.msb) :=
    (BitVec.msb_eq_getLsbD_last _).symm.trans BitVec.msb_xor
  simp only [Spec.crcShift, crcBit, htop, BitVec.shiftLeft_xor_distrib]
  split
  · ac_rfl
  · rfl

/-- After `n` shifts the register has taken in the top `n` data bits, and the other bits still wait. -/
theorem repeat_crcShift_xor (poly r d : Word16) (n : Nat) :
    Nat.repeat (Spec.crcShift poly) n (r ^^^ d) =
      (List.range n).foldl (fun r k => crcBit poly r (d.getMsbD k)) r ^^^ d <<< n := by
  induction n with
  | zero => simp [Nat.repeat]
  | succ n ih =>
    rw [Nat.repeat, ih, crcShift_xor, BitVec.msb_shiftLeft, ← BitVec.shiftLeft_add, List.range_succ,
      List.foldl_append, List.foldl_cons, List.foldl_nil]

/-- R140's bits in the order in which shifts reach them: the top one first (20_memory.md R74). -/
theorem crcByte_eq_foldl_getMsbD (poly r : Word16) (b : Byte) :
    crcByte poly r b = (List.range 8).foldl (fun r k => crcBit poly r (b.getMsbD k)) r := rfl

/-- Eight shifts take in the folded byte and leave none of it waiting. -/
theorem crcFoldByte_eq_crcByte (poly r : Word16) (b : Byte) :
    Spec.crcFoldByte poly r b = crcByte poly r b := by
  have hbit (k : Nat) : (b.setWidth 16 <<< 8).getMsbD k = b.getMsbD k := by simp
  have hout : b.setWidth 16 <<< 8 <<< 8 = 0#16 := by
    rw [← BitVec.shiftLeft_add, BitVec.shiftLeft_eq_zero (Nat.le_refl 16)]
  simp only [Spec.crcFoldByte, repeat_crcShift_xor, hbit, hout, BitVec.xor_zero,
    crcByte_eq_foldl_getMsbD]

/-- R142: both forms compute one function. -/
theorem crc16_eq_crcFold (xs : List Byte) (seed poly : Word16) :
    crc16 xs seed poly = Spec.crcFold xs seed poly := by
  have hbyte : Spec.crcFoldByte poly = crcByte poly := by
    funext r b
    exact crcFoldByte_eq_crcByte poly r b
  rw [crc16, Spec.crcFold, hbyte]

/-- R148: the register carries everything that the CRC keeps of the bytes so far. -/
theorem crc16_append (xs ys : List Byte) (seed poly : Word16) :
    crc16 (xs ++ ys) seed poly = crc16 ys (crc16 xs seed poly) poly :=
  List.foldl_append

/-! ### The check's two bytes -/

/-- Two bytes make a 16-bit value exactly when they are its halves (20_memory.md R71). -/
theorem append_eq_iff_bytes (hi lo : Byte) (w : Word16) :
    hi ++ lo = w ↔ lo = lowByte w ∧ hi = highByte w := by
  constructor
  · rintro rfl
    exact ⟨BitVec.extractLsb'_append_eq_right.symm, BitVec.extractLsb'_append_eq_left.symm⟩
  · rintro ⟨rfl, rfl⟩
    exact (BitVec.extractLsb'_append_extractLsb'_eq_extractLsb' rfl).trans BitVec.extractLsb'_eq_self

/-- R146: the check is a comparison with the CRC computed again. -/
theorem crcCheck_eq_decide (xs : List Byte) (lo hi : Byte) (seed poly : Word16) :
    crcCheck xs lo hi seed poly = decide ((hi ++ lo : Word16) = crc16 xs seed poly) := by
  rw [Bool.eq_iff_iff, decide_eq_true_iff, append_eq_iff_bytes, crcCheck, Bool.and_eq_true, beq_iff_eq,
    beq_iff_eq]

/-! ### The two operations -/

theorem exec_crc16 (xs : List Byte) (seed poly : Word16) (s : State) :
    exec (.crc16 xs seed poly) s = .next (s.emit (.crc16 (crc16 xs seed poly))) := rfl

theorem exec_crcCheck (xs : List Byte) (lo hi : Byte) (seed poly : Word16) (s : State) :
    exec (.crcCheck xs lo hi seed poly) s = .next (s.emit (.crcCheck (crcCheck xs lo hi seed poly))) :=
  rfl

end Sys2Proof.Machine
end

section
/-! The statements about the CRC engine (spec/40_crc.md). -/

namespace Sys2Proof.Proofs.Crc

open Sys2Proof Sys2Proof.Machine

/-- Settles O1: both forms take in each byte alike, so their folds over the list are one. -/
theorem crc16IsHighByteFold : Obligations.Crc16IsHighByteFold := by
  intro xs seed poly s
  rw [exec_crc16, crc16_eq_crcFold, State.emit]

/-- Settles O4: the two byte comparisons are one comparison of the appended bytes with the CRC. -/
theorem crcCheckRecomputes : Obligations.CrcCheckRecomputes := by
  intro xs lo hi seed poly s
  refine ⟨⟨rfl, rfl⟩, ?_⟩
  rw [exec_crcCheck, crcCheck_eq_decide, crc16_eq_crcFold, State.emit]

/-- Settles O2: the CRC is a left fold over the bytes, started from the seed. -/
theorem crc16Streams : Obligations.Crc16Streams := by
  intro xs ys seed poly s
  refine ⟨crc16 xs seed poly, exec_crc16 xs seed poly s, ?_⟩
  rw [exec_crc16, exec_crc16, crc16_append]

end Sys2Proof.Proofs.Crc
end

section
/-! SUPPORT. What MODEXP answers (spec/41_key_negotiation.md R160-R162). -/

namespace Sys2Proof.Machine

open Sys2Proof

/-- R162: the operand's width keeps the exponent within the loop's 64 bits, so the answer is the power. -/
theorem modexp_eq_pow_mod (b e m : Word64) :
    modexp b e m =
      if b = 0 ∨ m = 0 then none else some (BitVec.ofNat 64 (b.toNat ^ e.toNat % m.toNat)) := by
  have hpow : modPow b.toNat e.toNat m.toNat = b.toNat ^ e.toNat % m.toNat := modPow_eq e.isLt
  rw [modexp, hpow]

theorem exec_modexp (b e m : Word64) (s : State) :
    exec (.modexp b e m) s = .next (s.emit (.modexp (modexp b e m))) := rfl

end Sys2Proof.Machine
end

section
/-! The statement about MODEXP (spec/41_key_negotiation.md). -/

namespace Sys2Proof.Proofs.Modexp

open Sys2Proof Sys2Proof.Machine

/-- Settles O5: the one result is square and multiply's, which is the power for every 64-bit exponent. -/
theorem modexpExact : Obligations.ModexpExact := by
  intro b e m s
  refine ⟨⟨rfl, rfl⟩, ?_⟩
  rw [exec_modexp, modexp_eq_pow_mod, State.emit]

end Sys2Proof.Proofs.Modexp
end

section
/-! SUPPORT. The codec's two directions: ECB under one key undoes itself, what the fields of an envelope are
read as, and what DECRYPT answers for a packet that ENCRYPT built (spec/42_symmetric_codec.md R192-R207). -/

namespace Sys2Proof.Machine

open Sys2Proof

/-! ### Whole blocks -/

/-- R192: the inverse cipher over a buffer of whole blocks undoes the cipher over it. -/
theorem ecb_dec_ecb_enc (key : Block) {buf : List Byte} (h : 16 ∣ buf.length) :
    ecb key (ecb key buf .enc) .dec = buf := by
  have hlen : buf.length = 16 * (buf.length / 16) := (Nat.mul_div_cancel' h).symm
  have hblocks : (ecb key buf .enc).length / 16 = buf.length / 16 := by simp
  rw [ecb, hblocks]
  exact ecbBlocks_ecbBlocks (fun x => aesDec_aesEnc key x) _ buf hlen

/-- 30_encoding.md R109: the pad count fills the envelope's last block. -/
theorem dvd_envelope_length (n : Nat) : 16 ∣ 7 + n + padCount n := by
  simp only [padCount]
  omega

/-! ### What is read back out of an envelope -/

/-- R195, R202: a buffer that ends in its own CRC, low byte first, passes the check. -/
theorem crcCheck_append_crcBytes (c : Config) (env d : List Byte)
    (hd : d = env ++ crcBytes (configCrc c env)) :
    crcCheck (d.take (d.length - 2)) (byteAt d (d.length - 2)) (byteAt d (d.length - 1)) c.crcSeed
      c.crcPoly = true := by
  have hlo : d.length - 2 = env.length := by simp [hd]
  have hhi : d.length - 1 = env.length + 1 := by simp [hd]
  rw [hlo, hhi, hd]
  simp [byteAt, crcBytes, crcCheck, configCrc]

variable (c : Config) (xs : List Byte) (ctr : Word32) (pad : List Byte)

theorem byteAt_envelopeWith_zero : byteAt (envelopeWith c xs ctr pad) 0 = BitVec.ofNat 8 xs.length := rfl

theorem fromLE_slice_envelopeWith : fromLE (slice (envelopeWith c xs ctr pad) 1 4) = ctr.toNat :=
  fromLE_leBytes_of_lt (n := 4) ctr.isLt

theorem slice_envelopeWith_inner : slice (envelopeWith c xs ctr pad) 5 (4 + xs.length) = xs := by
  have hcount : 4 + xs.length + 1 - 5 = xs.length := by omega
  rw [slice, hcount]
  simp [envelopeWith, leBytes]

/-- R200, R207: an envelope passes every check but the counter's, which compares with the one counter that
it was built with. -/
theorem openEnvelope_envelopeWith (ctr' : Word32) (h : xs.length < 256) :
    openEnvelope c (envelopeWith c xs ctr pad) ctr' =
      if ctr' = ctr then .ok xs else .error .counter := by
  have hcrc := crcCheck_append_crcBytes c _ (envelopeWith c xs ctr pad) rfl
  have hn : (BitVec.ofNat 8 xs.length).toNat = xs.length := by
    rw [BitVec.toNat_ofNat, Nat.mod_eq_of_lt h]
  have hfits : ¬5 + xs.length > 7 + xs.length + pad.length - 2 := by omega
  have hctr : ctr.toNat ≠ ctr'.toNat ↔ ¬ctr' = ctr := by rw [ne_comm, ne_eq, BitVec.toNat_inj]
  rw [openEnvelope, hcrc, fromLE_slice_envelopeWith, byteAt_envelopeWith_zero, hn,
    envelopeWith_length, slice_envelopeWith_inner, if_neg hfits]
  simp only [hctr, ite_not, Bool.not_true, Bool.false_eq_true, if_false]

/-- R207, for every padding of the length that R109 gives. -/
theorem decryptPayload_encryptWith (key : Word64) (ctr' : Word32) (h : xs.length < 256)
    (hpad : pad.length = padCount xs.length) :
    decryptPayload c (encryptWith c xs ctr key pad) key ctr' =
      if ctr' = ctr then .ok xs else .error .counter := by
  have hlen : (envelopeWith c xs ctr pad).length = 7 + xs.length + padCount xs.length := by
    rw [envelopeWith_length, hpad]
  have hdvd : 16 ∣ (envelopeWith c xs ctr pad).length := hlen ▸ dvd_envelope_length xs.length
  have hblocks : ¬((ecb (keyBlock c key) (envelopeWith c xs ctr pad) .enc).length = 0 ∨
      (ecb (keyBlock c key) (envelopeWith c xs ctr pad) .enc).length % 16 ≠ 0) := by
    rw [ecb_length, Nat.mul_div_cancel' hdvd]
    omega
  rw [decryptPayload, encryptWith, List.drop_one, List.tail_cons]
  simp only [if_neg hblocks, ecb_dec_ecb_enc _ hdvd, openEnvelope_envelopeWith c xs ctr pad ctr' h]

/-! ### The two operations -/

theorem exec_encrypt (key : Word64) (s : State) (h : xs.length ≤ 233) :
    exec (.encrypt xs ctr key) s =
      .next ((State.drawBytes (padCount xs.length) s).2.emit
        (.encrypt (encryptWith s.cfg xs ctr key (State.drawBytes (padCount xs.length) s).1))) :=
  if_neg (Nat.not_lt.mpr h)

/-- R196, R199: within R198's bound ENCRYPT hands over a packet for some padding of R109's length, and nothing
but the draw input changes besides. -/
theorem exec_encrypt_frame (key : Word64) (s : State) (h : xs.length ≤ 233) :
    ∃ pad draws drawCount, pad.length = padCount xs.length ∧
      exec (.encrypt xs ctr key) s = .next { s with
        draws := draws
        drawCount := drawCount
        results := s.results ++ [.encrypt (encryptWith s.cfg xs ctr key pad)] } := by
  obtain ⟨hpad, draws, drawCount, hdrawn⟩ := drawBytes_frame (padCount xs.length) s
  refine ⟨_, draws, drawCount, hpad, ?_⟩
  rw [exec_encrypt xs ctr key s h, hdrawn, State.emit]

/-- R200, R206: DECRYPT hands over its answer and changes nothing else. -/
theorem opens_decryptPayload (s : State) (p : List Byte) (key : Word64) :
    Spec.Opens s p key ctr (decryptPayload s.cfg p key ctr) := rfl

end Sys2Proof.Machine
end

section
/-! The statement about the round trip of the symmetric codec (spec/42_symmetric_codec.md R207). -/

namespace Sys2Proof.Proofs.Codec

open Sys2Proof Sys2Proof.Machine

/-- Settles O10: whatever padding was drawn, the packet decrypts to the envelope it was made of, and that
opens exactly under the counter it holds. -/
theorem decryptOpensEncrypt : Obligations.DecryptOpensEncrypt := by
  intro inner ctr key s hinner
  obtain ⟨pad, draws, drawCount, hpad, hexec⟩ := exec_encrypt_frame inner ctr key s hinner
  refine ⟨encryptWith s.cfg inner ctr key pad, draws, drawCount, hexec, fun u hu => ?_⟩
  have hopens (ctr' : Word32) : Spec.Opens u (encryptWith s.cfg inner ctr key pad) key ctr'
      (if ctr' = ctr then .ok inner else .error .counter) := by
    rw [← decryptPayload_encryptWith s.cfg inner ctr pad key ctr' (by omega) hpad, ← hu]
    exact opens_decryptPayload ctr' u _ key
  constructor
  · simpa only [if_true] using hopens ctr
  · intro c' hne
    simpa only [if_neg hne] using hopens c'

end Sys2Proof.Proofs.Codec
end

section
/-! SUPPORT. The frame FRAME_ENCODE builds is the rules' own, part by part (spec/30_encoding.md R101-R105),
and what FRAME_ENCODE and RX_RESET answer (spec/43_frame_codec.md R220, R240). -/

namespace Sys2Proof.Machine

open Sys2Proof

/-! ### The parts of a frame -/

/-- 30_encoding.md R102: the address fills the seven bits below the sequence bit, so OR is addition. -/
theorem addrSeqByte_eq_addrByte (seq : Bool) (a : Addr) : addrSeqByte seq a = Spec.addrByte seq a := by
  have hor : 128 ||| a.toNat = 128 + a.toNat := (Nat.two_pow_add_eq_or_of_lt (i := 7) a.isLt 1).symm
  apply BitVec.eq_of_toNat_eq
  cases seq with
  | false => simp [addrSeqByte, Spec.addrByte]
  | true =>
    have hlt : a.toNat < 256 := by omega
    simp [addrSeqByte, Spec.addrByte, Nat.mod_eq_of_lt hlt, hor]
    omega

/-- 30_encoding.md R104: the CRC's bytes, by whichever form of the CRC. -/
theorem crcBytes_configCrc (c : Config) (xs : List Byte) :
    crcBytes (configCrc c xs) = Spec.crcTail c xs := by
  rw [configCrc, crc16_eq_crcFold]
  rfl

theorem bodyOf_eq_body (c : Config) (sa : Byte) (xs : List Byte) : bodyOf c sa xs = Spec.body c sa xs := by
  rw [bodyOf, bodyTail, crcBytes_configCrc]
  rfl

theorem doubled_eq_flatMap (stx : Byte) (bs : List Byte) :
    doubled stx bs = bs.flatMap (fun b => if b = stx then [b, b] else [b]) := by
  induction bs with
  | nil => rfl
  | cons b bs ih =>
    by_cases hb : b = stx <;> simp [doubled, ih, hb]

/-- 43_frame_codec.md R222: STUFF's loop sends the first byte once and doubles the later start markers. -/
theorem stuffBody_eq_stuffed (c : Config) (first : Byte) (rest : List Byte) :
    stuffBody c.stx first rest = Spec.stuffed c (first :: rest) := by
  rw [stuffBody, doubled_eq_flatMap]
  rfl

theorem wireOf_eq_stuffed_body (c : Config) (sa : Byte) (xs : List Byte) :
    wireOf c sa xs = Spec.stuffed c (Spec.body c sa xs) := by
  rw [wireOf, stuffBody_eq_stuffed, ← bodyOf_eq_body, bodyOf]

theorem frameEncode_eq_stuffed_body (c : Config) (a : Addr) (seq : Bool) (xs : List Byte) :
    frameEncode c a seq xs = Spec.stuffed c (Spec.body c (Spec.addrByte seq a) xs) := by
  rw [frameEncode, addrSeqByte_eq_addrByte, wireOf_eq_stuffed_body]

/-! ### The two operations -/

section
variable (addr : Byte) (seq : Bool) (xs : List Byte) (s : State)

theorem exec_frameEncode_of_invalid_addr (h : 127 < addr.toNat) :
    exec (.frameEncode addr seq xs) s = .next (s.refuse .invalidAddress) := if_pos h

theorem exec_frameEncode_of_too_long (haddr : addr.toNat ≤ 127) (h : 250 < xs.length) :
    exec (.frameEncode addr seq xs) s = .next (s.refuse .payloadTooLong) :=
  (if_neg (Nat.not_lt.mpr haddr)).trans (if_pos h)

theorem exec_frameEncode (haddr : addr.toNat ≤ 127) (h : xs.length ≤ 250) :
    exec (.frameEncode addr seq xs) s =
      .next (s.emit (.frameEncode (frameEncode s.cfg (addr.setWidth 7) seq xs))) :=
  (if_neg (Nat.not_lt.mpr haddr)).trans (if_neg (Nat.not_lt.mpr h))

end

theorem exec_rxReset (a : Addr) (s : State) : exec (.rxReset a) s = .next (s.rxReset a) := rfl

end Sys2Proof.Machine
end

section
/-! The statements about FRAME_ENCODE and RX_RESET (spec/43_frame_codec.md). -/

namespace Sys2Proof.Proofs.Frame

open Sys2Proof Sys2Proof.Machine

/-- Settles O11: each refusal has its own branch, and within both bounds the frame is the stuffed body. -/
theorem frameEncodeBuilds : Obligations.FrameEncodeBuilds := by
  intro addr seq xs s
  refine ⟨⟨rfl, rfl⟩, fun haddr => ?_, fun haddr hlong => ?_, fun haddr hlen => ?_⟩
  · rw [exec_frameEncode_of_invalid_addr addr seq xs s haddr]
    exact refused_refuse s .invalidAddress
  · rw [exec_frameEncode_of_too_long addr seq xs s haddr hlong]
    exact refused_refuse s .payloadTooLong
  · rw [exec_frameEncode addr seq xs s haddr hlen, frameEncode_eq_stuffed_body, State.emit]

/-- Settles O17: RX_RESET answers in every state, and the deframer it leaves is a fresh one for `a`. -/
theorem rxResetPrepares : Obligations.RxResetPrepares := by
  intro a s
  refine ⟨⟨rfl, rfl⟩, ?_⟩
  rw [exec_rxReset, State.rxReset, Deframer.rxReset]

end Sys2Proof.Proofs.Frame
end

section
/-! SUPPORT. The admission's checks, each with the reason it gives when the ones before it pass, and what a
refused SEND_COMMAND does on a free lock (spec/44_link_fsm.md R262). -/

namespace Sys2Proof.Machine

open Sys2Proof

/-! ### The checks, in the order of R262 -/

section
variable {s : State} {c : Command}

theorem admission_of_downloadActive (h : s.downloadActive = true) :
    s.admission c = some .downloadActive := if_pos h

theorem admission_of_invalid_addr (hdown : s.downloadActive = false) (h : 127 < c.addr.toNat) :
    s.admission c = some .invalidAddress :=
  (if_neg (Bool.eq_false_iff.mp hdown)).trans (if_pos h)

/-- Within the address's range, the checks of the Command's key, length and counter are left. -/
theorem admission_of_valid_addr (hdown : s.downloadActive = false) (haddr : c.addr.toNat ≤ 127) :
    s.admission c =
      if c.enc ∧ c.key = none then some .keyAbsent
      else if maxPayload < c.cmd.length ∨ (c.enc ∧ maxInner < c.cmd.length) then some .payloadTooLong
      else if c.enc ∧ s.ctrAt (c.addr.setWidth 7) = 0xFFFFFFFF then some .counterExhausted
      else none :=
  (if_neg (Bool.eq_false_iff.mp hdown)).trans (if_neg (Nat.not_lt.mpr haddr))

theorem admission_of_key_absent (hdown : s.downloadActive = false) (haddr : c.addr.toNat ≤ 127)
    (henc : c.enc = true) (hkey : c.key = none) : s.admission c = some .keyAbsent :=
  (admission_of_valid_addr hdown haddr).trans (if_pos ⟨henc, hkey⟩)

theorem admission_of_too_long (hdown : s.downloadActive = false) (haddr : c.addr.toNat ≤ 127)
    (hkey : c.enc = true → c.key ≠ none)
    (hlong : 250 < c.cmd.length ∨ (c.enc = true ∧ 233 < c.cmd.length)) :
    s.admission c = some .payloadTooLong := by
  have hpresent : ¬(c.enc = true ∧ c.key = none) := fun ⟨henc, hnone⟩ => hkey henc hnone
  rw [admission_of_valid_addr hdown haddr, if_neg hpresent]
  exact if_pos hlong

theorem admission_of_counter_exhausted (hdown : s.downloadActive = false) (haddr : c.addr.toNat ≤ 127)
    (hkey : c.enc = true → c.key ≠ none) (henc : c.enc = true) (hlen : c.cmd.length ≤ 233)
    (hctr : s.ctrAt (c.addr.setWidth 7) = 0xFFFFFFFF) : s.admission c = some .counterExhausted := by
  have hpresent : ¬(c.enc = true ∧ c.key = none) := fun ⟨henc, hnone⟩ => hkey henc hnone
  have hfits : ¬(maxPayload < c.cmd.length ∨ (c.enc = true ∧ maxInner < c.cmd.length)) := by
    simp only [maxPayload, maxInner]
    omega
  rw [admission_of_valid_addr hdown haddr, if_neg hpresent, if_neg hfits]
  exact if_pos ⟨henc, hctr⟩

end

/-! ### SEND_COMMAND on a free lock -/

/-- A refusal between acquiring a free lock and releasing it leaves the lock as it was. -/
theorem release_refuse_acquire {s : State} (hlock : s.lock = .free) (r : RefuseReason) :
    (s.acquire.refuse r).release = s.refuse r := by
  rw [State.release, ← hlock]
  rfl

theorem beginExchange_of_refused {s : State} {c : Command} {r : RefuseReason} (o : Owner)
    (hlock : s.lock = .free) (h : s.admission c = some r) : s.beginExchange o c = s.refuse r := by
  rw [State.beginExchange, h]
  exact release_refuse_acquire hlock r

theorem exec_sendCommand (c : Command) (s : State) :
    exec (.sendCommand c) s = .next (s.callSend c) := rfl

theorem exec_sendCommand_of_free {s : State} (c : Command) (hlock : s.lock = .free) :
    exec (.sendCommand c) s = .next (s.beginExchange (.host c) c) := by
  rw [exec_sendCommand, State.callSend, hlock]

/-- R262: whatever check fails first, its reason is all that SEND_COMMAND leaves behind. -/
theorem refused_exec_sendCommand {s : State} {c : Command} {r : RefuseReason} (hlock : s.lock = .free)
    (h : s.admission c = some r) : Spec.Refused (exec (.sendCommand c) s) s r := by
  rw [exec_sendCommand_of_free c hlock, beginExchange_of_refused (.host c) hlock h]
  exact refused_refuse s r

end Sys2Proof.Machine
end

section
/-! The statement about SEND_COMMAND's refusals (spec/44_link_fsm.md R262). -/

namespace Sys2Proof.Proofs.Link

open Sys2Proof Sys2Proof.Machine

/-- Settles O19: the admission names the first failing check's reason, and SEND_COMMAND refuses by it. -/
theorem sendRefusedInOrder : Obligations.SendRefusedInOrder := by
  intro c s hlock
  refine ⟨fun hactive => ?_, fun hdown => ⟨fun hbad => ?_, fun haddr => ⟨fun henc hnone => ?_,
    fun hkey => ⟨fun hlong => ?_, fun henc hlen hctr => ?_⟩⟩⟩⟩ <;>
    apply refused_exec_sendCommand hlock
  · exact admission_of_downloadActive hactive
  · exact admission_of_invalid_addr hdown hbad
  · exact admission_of_key_absent hdown haddr henc hnone
  · exact admission_of_too_long hdown haddr hkey hlong
  · exact admission_of_counter_exhausted hdown haddr hkey henc hlen hctr

end Sys2Proof.Proofs.Link
end

section
/-! SUPPORT. What an ended exchange leaves in each register (spec/44_link_fsm.md R277, R278), and how the
invariants carry over a step that leaves the link alone. -/

namespace Sys2Proof.Machine

open Sys2Proof

/-! ### The registers after the end of an exchange -/

section
variable (s : State) (o : Owner) (st : Status) (data : List Byte)

/-- R277, R278: beside what is handed back, the end of an exchange is the closed state. -/
theorem answered_eq_closed :
    ∃ results calls,
      Spec.answered s o st data = { Spec.closed s with results := results, calls := calls } := by
  obtain ⟨results, calls, h, _⟩ := answered_eq s o st data
  exact ⟨results, calls, h⟩

@[simp] theorem answered_cfg : (Spec.answered s o st data).cfg = s.cfg := by
  obtain ⟨results, calls, h⟩ := answered_eq_closed s o st data; rw [h]; rfl

@[simp] theorem answered_linkState : (Spec.answered s o st data).linkState = .idle := by
  obtain ⟨results, calls, h⟩ := answered_eq_closed s o st data; rw [h]; rfl

@[simp] theorem answered_rx : (Spec.answered s o st data).rx = s.rx := by
  obtain ⟨results, calls, h⟩ := answered_eq_closed s o st data; rw [h]; rfl

@[simp] theorem answered_lock : (Spec.answered s o st data).lock = .free := by
  obtain ⟨results, calls, h⟩ := answered_eq_closed s o st data; rw [h]; rfl

@[simp] theorem answered_refused : (Spec.answered s o st data).refused = s.refused := by
  obtain ⟨results, calls, h⟩ := answered_eq_closed s o st data; rw [h]; rfl

@[simp] theorem answered_seq : (Spec.answered s o st data).seq = s.seq := by
  obtain ⟨results, calls, h⟩ := answered_eq_closed s o st data; rw [h]; rfl

@[simp] theorem answered_ctr : (Spec.answered s o st data).ctr = s.ctr := by
  obtain ⟨results, calls, h⟩ := answered_eq_closed s o st data; rw [h]; rfl

@[simp] theorem answered_cur : (Spec.answered s o st data).cur = none := by
  obtain ⟨results, calls, h⟩ := answered_eq_closed s o st data; rw [h]; rfl

@[simp] theorem answered_txbuf : (Spec.answered s o st data).txbuf = s.txbuf := by
  obtain ⟨results, calls, h⟩ := answered_eq_closed s o st data; rw [h]; rfl

@[simp] theorem answered_lastTx : (Spec.answered s o st data).lastTx = s.lastTx := by
  obtain ⟨results, calls, h⟩ := answered_eq_closed s o st data; rw [h]; rfl

@[simp] theorem answered_deadline : (Spec.answered s o st data).deadline = none := by
  obtain ⟨results, calls, h⟩ := answered_eq_closed s o st data; rw [h]; rfl

@[simp] theorem answered_now : (Spec.answered s o st data).now = s.now := by
  obtain ⟨results, calls, h⟩ := answered_eq_closed s o st data; rw [h]; rfl

@[simp] theorem answered_write : (Spec.answered s o st data).write = .none := by
  obtain ⟨results, calls, h⟩ := answered_eq_closed s o st data; rw [h]; rfl

@[simp] theorem answered_sent : (Spec.answered s o st data).sent = s.sent := by
  obtain ⟨results, calls, h⟩ := answered_eq_closed s o st data; rw [h]; rfl

end

/-! ### The write and the spacing -/

@[simp] theorem doom_eq_none_iff (w : Write) : w.doom = .none ↔ w = .none := by
  cases w <;> simp [Write.doom]

/-- R267: the spacing timer in the terms claims use. -/
theorem spacingMet_iff (s : State) :
    s.spacingMet = true ↔ ∀ l, s.lastTx = some l → l + s.cfg.minSpacing ≤ s.now := by
  unfold State.spacingMet
  split <;> simp_all

/-- R335: the deadline event in the terms claims use. -/
theorem deadlinePassed_iff (s : State) :
    s.deadlinePassed = true ↔ ∃ d, s.deadline = some d ∧ d ≤ s.now := by
  unfold State.deadlinePassed
  split <;> simp_all

/-! ### Steps that leave the link alone -/

section
variable {s t : State}

theorem Quiet.write_eq_none_iff (q : Quiet s t) : t.write = .none ↔ s.write = .none := by
  rcases q.write with h | h <;> simp [h]

theorem Quiet.deframerInv (q : Quiet s t) (h : DeframerInv s.cfg s.rx) : DeframerInv t.cfg t.rx := by
  rw [q.cfg, q.rx]
  exact h

theorem Quiet.linkInv (q : Quiet s t) (h : LinkInv s) : LinkInv t where
  held_iff := by rw [q.lock, q.cur]; exact h.held_iff
  idle_iff := by rw [q.linkState, q.cur]; exact h.idle_iff
  passing := by rw [q.linkState]; exact h.passing
  writing := by rw [ne_eq, q.write_eq_none_iff, q.linkState, q.deadline]; exact h.writing
  awaiting := by rw [q.linkState, q.deadline]; exact h.awaiting
  absent := by rw [q.cur, q.deadline]; exact h.absent

theorem Quiet.exchangeInv (q : Quiet s t) (h : ExchangeInv s) : ExchangeInv t where
  payload := by rw [q.cur]; exact h.payload
  encrypted := by simp only [State.ctrAt, q.cur, q.ctr]; exact h.encrypted
  sync := by rw [q.cur, q.cfg]; exact h.sync
  txbuf := by rw [q.txbuf]; exact h.txbuf

theorem Quiet.tableInv (q : Quiet s t) (h : TableInv s) : TableInv t := by
  intro i hi
  rw [q.seq, q.ctr, q.cfg]
  exact h i hi

theorem Quiet.timeInv (q : Quiet s t) (h : TimeInv s) : TimeInv t := by
  intro l hl
  rw [q.lastTx] at hl
  exact Nat.le_trans (h l hl) q.now

end

end Sys2Proof.Machine
end

section
/-! SUPPORT. Each invariant along each change of a step (spec/43_frame_codec.md section 2, 44_link_fsm.md
sections 2 to 5, 10_state.md sections 5 to 7). -/

namespace Sys2Proof.Machine

open Sys2Proof

/-! ### What a frame may hold -/

/-- 43_frame_codec.md R222: every start marker stands twice. -/
theorem doubled_length (stx : Byte) (bs : List Byte) :
    (doubled stx bs).length = bs.length + bs.count stx := by
  induction bs with
  | nil => rfl
  | cons b bs ih =>
    rw [doubled]
    by_cases hb : b = stx
    · rw [if_pos hb, hb, List.count_cons_self]
      simp only [List.length_cons, ih]
      omega
    · rw [if_neg hb, List.count_cons_of_ne hb]
      simp only [List.length_cons, ih]
      omega

/-- 10_state.md R49: a frame of at most 250 payload bytes fits TXBUF. -/
theorem frameEncode_length_le (c : Config) (a : Addr) (seq : Bool) {xs : List Byte}
    (h : xs.length ≤ 250) : (frameEncode c a seq xs).length ≤ 509 := by
  have hdoubled := doubled_length c.stx (bodyTail c (addrSeqByte seq a) xs)
  have hcount := List.count_le_length (a := c.stx) (l := bodyTail c (addrSeqByte seq a) xs)
  have htail : (bodyTail c (addrSeqByte seq a) xs).length = xs.length + 4 := by simp [bodyTail]
  simp only [frameEncode, wireOf, stuffBody, List.length_cons]
  omega

/-! ### The table -/

/-- A table entry after one address's was written: the value written, or the entry as it was. -/
theorem getElem_set_slot {α : Type} (v : Vector α nAddr) (a : Addr) (y : α) (i : Fin nAddr) :
    (v.set (slot a) y)[i] = if slot a = i then y else v[i] := by
  have hval : slot a = i ↔ (slot a).val = i.val := Fin.ext_iff
  simp only [Fin.getElem_fin, Vector.getElem_set, hval]

theorem slot_ne_of_le (a : Addr) {i : Fin nAddr} (h : 128 ≤ i.val) : slot a ≠ i := by
  rintro rfl
  exact absurd (slot_lt a) (by omega)

/-- Writing an address's entry leaves the entries without an address alone (10_state.md R46). -/
theorem getElem_set_slot_of_le {α : Type} (v : Vector α nAddr) (a : Addr) (y : α) {i : Fin nAddr}
    (h : 128 ≤ i.val) : (v.set (slot a) y)[i] = v[i] := by
  rw [getElem_set_slot, if_neg (slot_ne_of_le a h)]

theorem syncReset_seq (s : State) (x : Exchange) :
    (s.syncReset x).seq = if x.sync then s.seq.set (slot x.addr) s.cfg.seqInit else s.seq := by
  unfold State.syncReset
  split <;> rfl

/-- The sequence bits after an exchange's end: one address's toggled, or all as they were. -/
theorem Ending.seq_eq {s u : State} {x : Exchange} {st : Status} {resp : List Byte}
    (h : Ending s x u st resp) : u.seq = s.seq ∨
      (s.linkState = .awaitingResponse ∧ u.seq = Spec.toggled s x.addr) := by
  rcases h.table with ⟨hseq, _⟩ | ⟨hl, _, _, _, _, hseq, _⟩
  · exact .inl hseq
  · exact .inr ⟨hl, hseq⟩

/-- The counters after an exchange's end: all as they were, or the address's counted for an encrypted
exchange, which then has a key and toggles the sequence bit. -/
theorem Ending.ctr_eq {s u : State} {x : Exchange} {st : Status} {resp : List Byte}
    (h : Ending s x u st resp) : u.ctr = s.ctr ∨
      (s.linkState = .awaitingResponse ∧ x.enc = true ∧ x.key ≠ none ∧
        u.seq = Spec.toggled s x.addr ∧
        u.ctr = s.ctr.set (slot x.addr) (s.ctr[slot x.addr] + 1)) := by
  rcases h.table with ⟨_, hctr, _⟩ | ⟨hl, _, rxEnc, status, hdec, hseq, hctr, _⟩
  · exact .inl hctr
  by_cases hboth : x.enc = true ∧ rxEnc = true
  · obtain ⟨henc, rfl⟩ := hboth
    obtain ⟨_, k, _, hkey, _⟩ := hdec
    rw [Spec.counted, if_pos ⟨henc, rfl⟩] at hctr
    exact .inr ⟨hl, henc, by simp [hkey], hseq, hctr⟩
  · rw [Spec.counted, if_neg hboth] at hctr
    exact .inl hctr

/-! ### The deframer -/

theorem Change.deframerInv {s t : State} (hc : Change s t) (h : DeframerInv s.cfg s.rx) :
    DeframerInv t.cfg t.rx := by
  cases hc with
  | quiet q => exact q.deframerInv h
  | received d hd q => exact q.deframerInv (hd h)
  | counterReset a hl q => exact q.deframerInv h
  | begun o c payload _ _ _ _ _ _ q => exact q.deframerInv h
  | issued x hc hl hw hs hsame hrx hlt hdl hsent hwr =>
    rw [hsame.1, hrx]
    exact deframerInv_rxReset s.cfg x.addr
  | writeOk x d hc hw q => exact q.deframerInv h
  | retried x hc hl hr q => exact q.deframerInv h
  | ended x u st resp hc hend =>
    rw [answered_cfg, answered_rx, hend.cfg]
    exact hend.rx h
  | reset hev hl hs hc hr q => exact q.deframerInv (deframerInv_reset s.cfg)

/-! ### The link agent's control state -/

/-- A write is under way only in SENDING. -/
theorem linkInv_write_eq_none {s : State} (h : LinkInv s) (hl : s.linkState ≠ .sending) :
    s.write = .none := by
  by_contra hw
  exact hl (h.writing hw).1

/-- With the lock free no exchange is in progress and nothing of one is left. -/
theorem linkInv_of_free {s : State} (h : LinkInv s) (hl : s.lock = .free) :
    s.cur = none ∧ s.linkState = .idle ∧ s.write = .none ∧ s.deadline = none := by
  have hcur : s.cur = none := by
    rw [← Option.not_isSome_iff_eq_none, ← h.held_iff, hl]
    exact nofun
  have hidle : s.linkState = .idle := h.idle_iff.mpr hcur
  exact ⟨hcur, hidle, linkInv_write_eq_none h (by simp [hidle]), h.absent hcur⟩

theorem Change.linkInv {s t : State} (hc : Change s t) (h : LinkInv s) : LinkInv t := by
  cases hc with
  | quiet q => exact q.linkInv h
  | received d hd q =>
    exact q.linkInv ⟨h.held_iff, h.idle_iff, h.passing, h.writing, h.awaiting, h.absent⟩
  | counterReset a hl q =>
    exact q.linkInv ⟨h.held_iff, h.idle_iff, h.passing, h.writing, h.awaiting, h.absent⟩
  | begun o c payload hl _ _ _ _ _ q =>
    obtain ⟨_, _, hwrite, _⟩ := linkInv_of_free h hl
    exact q.linkInv ⟨by simp, by simp, by simp, fun hw => absurd hwrite hw, nofun, nofun⟩
  | issued x hx hl hw hs hsame hrx hlt hdl hsent hwr =>
    obtain ⟨_, hlink, hlock, _, _, hcur, _⟩ := hsame
    exact {
      held_iff := by rw [hlock, hcur]; exact h.held_iff
      idle_iff := by rw [hlink, hcur]; exact h.idle_iff
      passing := by rw [hlink]; exact h.passing
      writing := fun _ => ⟨hlink.trans hl, by simp [hdl]⟩
      awaiting := fun _ => by simp [hdl]
      absent := fun hnone => by simp [hcur, hx] at hnone }
  | writeOk x d hx hw q =>
    have hdl : s.deadline.isSome = true := (h.writing (by simp [hw])).2
    exact q.linkInv ⟨h.held_iff, by simp [hx], by simp, nofun, fun _ => hdl, h.absent⟩
  | retried x hx hl hr q =>
    have hwrite : s.write = .none := linkInv_write_eq_none h (by simp [hl])
    have hheld : s.lock = .held := h.held_iff.mpr (by simp [hx])
    exact q.linkInv ⟨by simp [hheld], by simp, by simp, fun hw => absurd hwrite hw, nofun, nofun⟩
  | ended x u st resp hx hend =>
    exact ⟨by simp, by simp, by simp, by simp, by simp, by simp⟩
  | reset hev hl hs hc hr q =>
    exact q.linkInv ⟨by simp [State.resetWith], by simp [State.resetWith], by simp [State.resetWith],
      nofun, nofun, fun _ => rfl⟩

/-! ### What admission established -/

theorem Change.exchangeInv {s t : State} (hc : Change s t) (h : ExchangeInv s) : ExchangeInv t := by
  cases hc with
  | quiet q => exact q.exchangeInv h
  | received d hd q => exact q.exchangeInv ⟨h.payload, h.encrypted, h.sync, h.txbuf⟩
  | counterReset a hl q =>
    refine q.exchangeInv ⟨h.payload, fun x hx henc => ?_, h.sync, h.txbuf⟩
    obtain ⟨hkey, hlen, hctr⟩ := h.encrypted x hx henc
    refine ⟨hkey, hlen, ?_⟩
    show (s.ctr.set (slot a) 0)[slot x.addr] ≠ 0xFFFFFFFF
    rw [getElem_set_slot]
    split
    · decide
    · exact hctr
  | begun o c payload hl hlen hp henc _ _ q =>
    refine q.exchangeInv ⟨?_, ?_, ?_, frameEncode_length_le _ _ _ hp⟩
    · rintro x ⟨⟩
      exact hlen
    · rintro x ⟨⟩ hx
      obtain ⟨hkey, h233, hctr⟩ := henc hx
      exact ⟨Option.isSome_iff_ne_none.mpr hkey, h233, hctr⟩
    · rintro x ⟨⟩
      rfl
  | issued x hx hl hw hs hsame hrx hlt hdl hsent hwr =>
    obtain ⟨hcfg, _, _, _, hctr, hcur, htx, _⟩ := hsame
    exact {
      payload := by rw [hcur]; exact h.payload
      encrypted := by simp only [State.ctrAt, hcur, hctr]; exact h.encrypted
      sync := by rw [hcur, hcfg]; exact h.sync
      txbuf := by rw [htx]; exact h.txbuf }
  | writeOk x d hx hw q => exact q.exchangeInv ⟨h.payload, h.encrypted, h.sync, h.txbuf⟩
  | retried x hx hl hr q =>
    refine q.exchangeInv ⟨?_, ?_, ?_, h.txbuf⟩
    · rintro y ⟨⟩
      exact h.payload x hx
    · rintro y ⟨⟩ henc
      exact h.encrypted x hx henc
    · rintro y ⟨⟩
      exact h.sync x hx
  | ended x u st resp hx hend =>
    exact ⟨by simp, by simp, by simp, by rw [answered_txbuf, hend.txbuf]; exact h.txbuf⟩
  | reset hev hl hs hc hr q => exact q.exchangeInv ⟨nofun, nofun, nofun, by simp [State.resetWith]⟩

/-! ### The table's upper entries and the time -/

theorem Change.tableInv {s t : State} (hc : Change s t) (h : TableInv s) : TableInv t := by
  cases hc with
  | quiet q => exact q.tableInv h
  | received d hd q => exact q.tableInv h
  | counterReset a hl q =>
    refine q.tableInv fun i hi => ⟨(h i hi).1, ?_⟩
    exact (getElem_set_slot_of_le _ _ _ hi).trans (h i hi).2
  | begun o c payload hl _ _ _ _ _ q =>
    refine q.tableInv fun i hi => ⟨?_, (h i hi).2⟩
    show (s.syncReset (latch s.cfg o c)).seq[i] = s.cfg.seqInit
    rw [syncReset_seq]
    split
    · exact (getElem_set_slot_of_le _ _ _ hi).trans (h i hi).1
    · exact (h i hi).1
  | issued x hx hl hw hs hsame hrx hlt hdl hsent hwr =>
    obtain ⟨hcfg, _, _, hseq, hctr, _⟩ := hsame
    intro i hi
    rw [hseq, hctr, hcfg]
    exact h i hi
  | writeOk x d hx hw q => exact q.tableInv h
  | retried x hx hl hr q => exact q.tableInv h
  | ended x u st resp hx hend =>
    intro i hi
    rw [answered_seq, answered_ctr, answered_cfg, hend.cfg]
    constructor
    · rcases hend.seq_eq with hseq | ⟨_, hseq⟩ <;> rw [hseq]
      · exact (h i hi).1
      · exact (getElem_set_slot_of_le _ _ _ hi).trans (h i hi).1
    · rcases hend.ctr_eq with hctr | ⟨_, _, _, _, hctr⟩ <;> rw [hctr]
      · exact (h i hi).2
      · exact (getElem_set_slot_of_le _ _ _ hi).trans (h i hi).2
  | reset hev hl hs hc hr q =>
    refine q.tableInv fun i _ => ⟨?_, ?_⟩
    · exact Vector.getElem_replicate i.isLt
    · exact Vector.getElem_replicate i.isLt

theorem Change.timeInv {s t : State} (hc : Change s t) (h : TimeInv s) : TimeInv t ∧ s.now ≤ t.now := by
  cases hc with
  | quiet q => exact ⟨q.timeInv h, q.now⟩
  | received d hd q => exact ⟨q.timeInv h, q.now⟩
  | counterReset a hl q => exact ⟨q.timeInv h, q.now⟩
  | begun o c payload hl _ _ _ _ _ q => exact ⟨q.timeInv h, q.now⟩
  | issued x hx hl hw hs hsame hrx hlt hdl hsent hwr =>
    obtain ⟨_, _, _, _, _, _, _, hnow, _⟩ := hsame
    refine ⟨fun l hl => ?_, hnow.ge⟩
    rw [hlt] at hl
    cases hl
    exact hnow.ge
  | writeOk x d hx hw q => exact ⟨q.timeInv h, q.now⟩
  | retried x hx hl hr q => exact ⟨q.timeInv h, q.now⟩
  | ended x u st resp hx hend =>
    rw [TimeInv, answered_lastTx, answered_now, hend.lastTx, hend.now]
    exact ⟨h, Nat.le_refl _⟩
  | reset hev hl hs hc hr q => exact ⟨q.timeInv nofun, q.now⟩

end Sys2Proof.Machine
end

section
/-! The statements about the invariants of every step (spec/43_frame_codec.md section 2, 44_link_fsm.md
sections 2 to 5, 10_state.md sections 5 to 7). -/

namespace Sys2Proof.Proofs.Invariants

open Sys2Proof Sys2Proof.Machine

/-- Settles O18: a step leaves the deframer alone, feeds it bytes, or resets it. -/
theorem deframerInvKept : Obligations.DeframerInvKept :=
  fun s t h hstep => (step_change s t hstep).deframerInv h

/-- Settles O36: by the changes a step can make. -/
theorem linkInvKept : Obligations.LinkInvKept :=
  fun s t h hstep => (step_change s t hstep).linkInv h

/-- Settles O37: an exchange starts with what its admission checked, and no later step takes it away. -/
theorem exchangeInvKept : Obligations.ExchangeInvKept :=
  fun s t h hstep => (step_change s t hstep).exchangeInv h

/-- Settles O38: every write to the table is at a 7-bit address. -/
theorem tableInvKept : Obligations.TableInvKept :=
  fun s t h hstep => (step_change s t hstep).tableInv h

/-- Settles O39: a write's issue sets LAST_TX to the time of its step, and only TIME moves the time. -/
theorem timeInvKept : Obligations.TimeInvKept :=
  fun s t h hstep => (step_change s t hstep).timeInv h

end Sys2Proof.Proofs.Invariants
end

section
/-! SUPPORT. What each change of a step does to the configuration, REFUSED, the table and the transport
(spec/10_state.md sections 2, 4 and 5, 44_link_fsm.md sections 3 and 5). -/

namespace Sys2Proof.Machine

open Sys2Proof

section
variable {s t : State}

theorem Change.cfg_eq (hc : Change s t) : t.cfg = s.cfg := by
  cases hc with
  | quiet q => exact q.cfg
  | received d hd q => exact q.cfg
  | counterReset a hl q => exact q.cfg
  | begun o c payload _ _ _ _ _ _ q => exact q.cfg
  | issued x hc hl hw hs hsame hrx hlt hdl hsent hwr => exact hsame.1
  | writeOk x d hc hw q => exact q.cfg
  | retried x hc hl hr q => exact q.cfg
  | ended x u st resp hc hend => rw [answered_cfg, hend.cfg]
  | reset hev hl hs hc hr q => exact q.cfg

/-- R43: but for an admitted RESET, every change keeps the reasons in REFUSED. -/
theorem Change.refused_subset (hc : Change s t) :
    (∀ r, r ∈ s.refused → r ∈ t.refused) ∨
      (Spec.ResetNext s ∧ t.refused = [] ∧ s.lock = .free ∧ s.linkState = .idle ∧
        ∀ n stage, Call.negotiation n stage ∉ s.calls) := by
  cases hc with
  | quiet q => exact .inl q.refused
  | received d hd q => exact .inl q.refused
  | counterReset a hl q => exact .inl q.refused
  | begun o c payload _ _ _ _ _ _ q => exact .inl q.refused
  | issued x hc hl hw hs hsame hrx hlt hdl hsent hwr =>
    obtain ⟨_, _, _, _, _, _, _, _, hrefused⟩ := hsame
    exact .inl fun r hr => hrefused ▸ hr
  | writeOk x d hc hw q => exact .inl q.refused
  | retried x hc hl hr q => exact .inl q.refused
  | ended x u st resp hc hend =>
    refine .inl fun r hr => ?_
    rw [answered_refused, hend.refused]
    exact hr
  | reset hev hl hs hc hr q => exact .inr ⟨hev, hr, hl, hs, hc⟩

/-- R33: a change under a legal configuration never refuses for a bad one. -/
theorem Change.badConfig_mem (hc : Change s t) (hlegal : legalConfig s.cfg = true)
    (h : RefuseReason.badConfig ∈ t.refused) : RefuseReason.badConfig ∈ s.refused := by
  have of_quiet {u : State} (q : Quiet u t) (hcfg : u.cfg = s.cfg) (hrefused : u.refused = s.refused) :
      RefuseReason.badConfig ∈ s.refused := by
    rcases q.badConfig h with hmem | hbad
    · exact hrefused ▸ hmem
    · rw [hcfg, hlegal] at hbad
      cases hbad
  cases hc with
  | quiet q => exact of_quiet q rfl rfl
  | received d hd q => exact of_quiet q rfl rfl
  | counterReset a hl q => exact of_quiet q rfl rfl
  | begun o c payload _ _ _ _ _ _ q => exact of_quiet q rfl rfl
  | issued x hc hl hw hs hsame hrx hlt hdl hsent hwr =>
    obtain ⟨_, _, _, _, _, _, _, _, hrefused⟩ := hsame
    exact hrefused ▸ h
  | writeOk x d hc hw q => exact of_quiet q rfl rfl
  | retried x hc hl hr q => exact of_quiet q rfl rfl
  | ended x u st resp hc hend =>
    rw [answered_refused, hend.refused] at h
    exact h
  | reset hev hl hs hc hr q =>
    rw [hr] at h
    cases h

/-- Only the issue of a write hands bytes over. -/
theorem Change.sent_cases (hc : Change s t) :
    t.sent = s.sent ∨
      (t.sent = s.sent ++ [s.txbuf] ∧ s.spacingMet = true ∧ t.lastTx = some s.now ∧ t.now = s.now ∧
        s.linkState = .sending) := by
  cases hc with
  | quiet q => exact .inl q.sent
  | received d hd q => exact .inl q.sent
  | counterReset a hl q => exact .inl q.sent
  | begun o c payload _ _ _ _ _ _ q => exact .inl q.sent
  | issued x hc hl hw hs hsame hrx hlt hdl hsent hwr =>
    obtain ⟨_, _, _, _, _, _, _, hnow, _⟩ := hsame
    exact .inr ⟨hsent, hs, hlt, hnow, hl⟩
  | writeOk x d hc hw q => exact .inl q.sent
  | retried x hc hl hr q => exact .inl q.sent
  | ended x u st resp hc hend => exact .inl (by rw [answered_sent, hend.sent])
  | reset hev hl hs hc hr q => exact .inl q.sent

/-- What a change does to the counters: nothing, NEGOTIATE's reset of one, the count of an encrypted
exchange at its end, or RESET of all. -/
theorem Change.ctr_cases (hc : Change s t) :
    t.ctr = s.ctr ∨
    (∃ a, t.ctr = s.ctr.set (slot a) 0 ∧ s.lock = .free) ∨
    (∃ x, s.cur = some x ∧ t.cur = none ∧ s.linkState = .awaitingResponse ∧ x.enc = true ∧
      x.key ≠ none ∧ t.seq = Spec.toggled s x.addr ∧
      t.ctr = s.ctr.set (slot x.addr) (s.ctr[slot x.addr] + 1)) ∨
    (t.ctr = Vector.replicate nAddr 0 ∧ s.lock = .free) := by
  cases hc with
  | quiet q => exact .inl q.ctr
  | received d hd q => exact .inl q.ctr
  | counterReset a hl q => exact .inr (.inl ⟨a, q.ctr, hl⟩)
  | begun o c payload _ _ _ _ _ _ q => exact .inl q.ctr
  | issued x hc hl hw hs hsame hrx hlt hdl hsent hwr =>
    obtain ⟨_, _, _, _, hctr, _⟩ := hsame
    exact .inl hctr
  | writeOk x d hc hw q => exact .inl q.ctr
  | retried x hc hl hr q => exact .inl q.ctr
  | ended x u st resp hc hend =>
    rw [answered_ctr, answered_seq, answered_cur]
    rcases hend.ctr_eq with hctr | ⟨hl, henc, hkey, hseq, hctr⟩
    · exact .inl hctr
    · exact .inr (.inr (.inl ⟨x, hc, rfl, hl, henc, hkey, hseq, hctr⟩))
  | reset hev hl hs hc hr q => exact .inr (.inr (.inr ⟨q.ctr, hl⟩))

/-- What a change does to the sequence bits: nothing, a SYNC's reset of one, the toggle at an exchange's
end, or RESET of all. -/
theorem Change.seq_cases (hc : Change s t) :
    t.seq = s.seq ∨
    (∃ a, t.seq = s.seq.set (slot a) s.cfg.seqInit ∧ s.lock = .free) ∨
    (∃ x, s.cur = some x ∧ t.cur = none ∧ s.linkState = .awaitingResponse ∧
      t.seq = Spec.toggled s x.addr) ∨
    (t.seq = Vector.replicate nAddr s.cfg.seqInit ∧ s.lock = .free) := by
  cases hc with
  | quiet q => exact .inl q.seq
  | received d hd q => exact .inl q.seq
  | counterReset a hl q => exact .inl q.seq
  | begun o c payload hl _ _ _ _ _ q =>
    have hseq := q.seq.trans (syncReset_seq s (latch s.cfg o c))
    split at hseq
    · exact .inr (.inl ⟨_, hseq, hl⟩)
    · exact .inl hseq
  | issued x hc hl hw hs hsame hrx hlt hdl hsent hwr =>
    obtain ⟨_, _, _, hseq, _⟩ := hsame
    exact .inl hseq
  | writeOk x d hc hw q => exact .inl q.seq
  | retried x hc hl hr q => exact .inl q.seq
  | ended x u st resp hc hend =>
    rw [answered_seq, answered_cur]
    rcases hend.seq_eq with hseq | ⟨hl, hseq⟩
    · exact .inl hseq
    · exact .inr (.inr (.inl ⟨x, hc, rfl, hl, hseq⟩))
  | reset hev hl hs hc hr q => exact .inr (.inr (.inr ⟨q.seq, hl⟩))

end

theorem toggled_getElem_slot (s : State) (a : Addr) :
    (Spec.toggled s a)[slot a] = !s.seq[slot a] := by
  rw [Spec.toggled, getElem_set_slot, if_pos rfl]

/-! ### Configurations -/

/-- 10_state.md R33, (a) to (d). -/
theorem legalConfig_iff (c : Config) :
    legalConfig c = true ↔ c.encMarker ≠ c.stx ∧ c.crcPoly ≠ 0 ∧
      (1 ≤ c.secretBound ∧ c.secretBound ≤ 2 ^ 64) ∧ (2 ≤ c.primeBits ∧ c.primeBits ≤ 64) := by
  simp only [legalConfig, Bool.and_eq_true, decide_eq_true_eq, and_assoc]

/-! ### A step and its event -/

theorem step_of_nil {s : State} (hevents : s.events = []) (h : legalConfig s.cfg = true) :
    step s = .next s.idleMove := by
  simp only [step, hevents, h, if_true]

theorem step_of_cons {s : State} {e : Event} {rest : List Event} (hevents : s.events = e :: rest)
    (h : legalConfig s.cfg = true) : step s = { s with events := rest }.move e := by
  simp only [step, hevents, h, if_true]

/-- 10_state.md R33: without a legal configuration every step refuses, and takes its event away. -/
theorem step_of_illegal {s : State} (h : legalConfig s.cfg = false) :
    step s = .next ({ s with events := s.events.drop 1 }.refuse .badConfig) := by
  cases hevents : s.events with
  | nil =>
    have hsame : { s with events := [] } = s := by rw [← hevents]
    simp only [step, hevents, h, List.drop_nil, hsame, Bool.false_eq_true, if_false]
  | cons e rest => simp only [step, hevents, h, List.drop_one, List.tail_cons, Bool.false_eq_true, if_false]

end Sys2Proof.Machine
end

section
/-! The statements about what no step, or only some step, writes (spec/10_state.md sections 2, 4 and 5,
44_link_fsm.md sections 3 and 5). -/

namespace Sys2Proof.Proofs.Writes

open Sys2Proof Sys2Proof.Machine

/-- Settles O43: no change writes the configuration. -/
theorem configurationFixed : Obligations.ConfigurationFixed :=
  fun s t hstep => (step_change s t hstep).cfg_eq

/-- Settles O44: the one change that takes reasons out is RESET's. -/
theorem refusalsStick : Obligations.RefusalsStick :=
  fun s t hstep => (step_change s t hstep).refused_subset

/-- Settles O25: a frame goes out with a write's issue, which waits for the spacing timer. -/
theorem spacingRespected : Obligations.SpacingRespected := by
  intro s t hstep
  refine (step_change s t hstep).sent_cases.imp_right ?_
  rintro ⟨hsent, hspacing, hlast, hnow, hlink⟩
  exact ⟨hsent, (spacingMet_iff s).mp hspacing, hlast, hnow, hlink⟩

/-- Settles O41: an entry that changed is the one entry its change wrote. -/
theorem counterChanges : Obligations.CounterChanges := by
  intro s t i hstep hne
  rcases (step_change s t hstep).ctr_cases with
    hctr | ⟨a, hctr, hlock⟩ | ⟨x, hx, hnone, hl, henc, hkey, hseq, hctr⟩ | ⟨hctr, hlock⟩ <;>
    rw [hctr] at hne ⊢
  · exact absurd rfl hne
  · rw [getElem_set_slot] at hne ⊢
    split at hne
    · rename_i ha
      exact .inr ⟨if_pos ha, hlock⟩
    · exact absurd rfl hne
  · rw [getElem_set_slot] at hne ⊢
    split at hne
    · rename_i ha
      subst ha
      refine .inl ⟨if_pos rfl, ?_, hnone, hl, x, hx, rfl, henc, hkey⟩
      rw [hseq, toggled_getElem_slot]
    · exact absurd rfl hne
  · exact .inr ⟨Vector.getElem_replicate i.isLt, hlock⟩

/-- Settles O42: a bit that changed is the one bit its change wrote. -/
theorem sequenceBitChanges : Obligations.SequenceBitChanges := by
  intro s t i hstep hne
  rcases (step_change s t hstep).seq_cases with
    hseq | ⟨a, hseq, hlock⟩ | ⟨x, hx, hnone, hl, hseq⟩ | ⟨hseq, hlock⟩ <;> rw [hseq] at hne ⊢
  · exact absurd rfl hne
  · rw [getElem_set_slot] at hne ⊢
    split at hne
    · rename_i ha
      exact .inr ⟨if_pos ha, hlock⟩
    · exact absurd rfl hne
  · rw [Spec.toggled, getElem_set_slot] at hne
    split at hne
    · rename_i ha
      exact .inl ⟨hnone, hl, x, hx, ha⟩
    · exact absurd rfl hne
  · exact .inr ⟨Vector.getElem_replicate i.isLt, hlock⟩

/-- Settles O57: R33's constraints are checked before the step looks at its event, and no operation under
them refuses for the configuration. -/
theorem badConfigurationRefused : Obligations.BadConfigurationRefused := by
  intro s
  constructor
  · intro hbad
    rw [← legalConfig_iff, Bool.not_eq_true] at hbad
    rw [step_of_illegal hbad]
    exact refused_refuse _ _
  · intro t hmarker hpoly hsecret hprime hstep
    exact (step_change s t hstep).badConfig_mem
      ((legalConfig_iff s.cfg).mpr ⟨hmarker, hpoly, hsecret, hprime⟩)

end Sys2Proof.Proofs.Writes
end

section
/-! SUPPORT. What a step can do to the exchange in progress and to the writes it may still issue
(spec/44_link_fsm.md sections 3 to 5), and the branches of the link agent's move. -/

namespace Sys2Proof.Machine

open Sys2Proof

/-! ### The writes left -/

section
variable {s : State} {x : Exchange}

theorem writesLeft_of_underWay (h : s.linkState = .awaitingResponse ∨ s.write ≠ .none) :
    Spec.writesLeft s x = max x.retriesLeft 1 - 1 := by
  rw [Spec.writesLeft, if_pos h]

theorem writesLeft_of_sending (hl : s.linkState = .sending) (hw : s.write = .none) :
    Spec.writesLeft s x = max x.retriesLeft 1 := by
  rw [Spec.writesLeft, if_neg (by simp [hl, hw]), Nat.sub_zero]

end

theorem Quiet.writesLeft_eq {s t : State} (q : Quiet s t) (x : Exchange) :
    Spec.writesLeft t x = Spec.writesLeft s x := by
  simp only [Spec.writesLeft, q.linkState, ne_eq, q.write_eq_none_iff]

/-! ### The exchange in progress along a step -/

/-- What a step can do to the exchange in progress: a `Change` seen from its registers. -/
inductive ExchangeChange (s t : State) : Prop
  /-- the exchange, or its absence, stays, and no write is issued -/
  | kept (hcur : t.cur = s.cur) (htx : t.txbuf = s.txbuf ∨ s.cur = none) (hsent : t.sent = s.sent)
      (hleft : ∀ y, s.cur = some y → Spec.writesLeft t y = Spec.writesLeft s y)
  /-- a write is issued (R268) -/
  | issued (x : Exchange) (hx : s.cur = some x) (hcur : t.cur = some x) (htx : t.txbuf = s.txbuf)
      (hsent : t.sent = s.sent ++ [s.txbuf])
      (hleft : Spec.writesLeft t x + 1 = Spec.writesLeft s x)
  /-- an exchange starts (R262-R266) -/
  | begun (o : Owner) (c : Command) (hnone : s.cur = none) (hcur : t.cur = some (latch s.cfg o c))
      (hsent : t.sent = s.sent) (hl : t.linkState = .sending) (hw : t.write = .none)
      (ho : ∀ c', o = .host c' → c' = c) (hn : ∀ n k, o = .negotiation n k → c.retry = n.retry)
  /-- an attempt times out and another one is left (R270) -/
  | retried (x : Exchange) (hx : s.cur = some x)
      (hcur : t.cur = some { x with retriesLeft := x.retriesLeft - 1 }) (htx : t.txbuf = s.txbuf)
      (hsent : t.sent = s.sent)
      (hleft : Spec.writesLeft t { x with retriesLeft := x.retriesLeft - 1 } = Spec.writesLeft s x)
  /-- the exchange ends (R277, R278) -/
  | ended (x : Exchange) (u : State) (st : Status) (resp : List Byte) (hx : s.cur = some x)
      (hend : Ending s x u st resp) (ht : t = Spec.answered u x.owner st resp)

theorem Change.exchangeChange {s t : State} (hc : Change s t) (h : LinkInv s) : ExchangeChange s t := by
  cases hc with
  | quiet q => exact .kept q.cur (.inl q.txbuf) q.sent fun y _ => q.writesLeft_eq y
  | received d hd q => exact .kept q.cur (.inl q.txbuf) q.sent fun y _ => q.writesLeft_eq y
  | counterReset a hl q => exact .kept q.cur (.inl q.txbuf) q.sent fun y _ => q.writesLeft_eq y
  | begun o c payload hl _ _ _ ho hn q =>
    obtain ⟨hnone, _, hwrite, _⟩ := linkInv_of_free h hl
    exact .begun o c hnone q.cur q.sent q.linkState (q.write_eq_none_iff.mpr hwrite) ho hn
  | issued x hx hl hw hs hsame hrx hlt hdl hsent hwr =>
    obtain ⟨_, _, _, _, _, hcur, htx, _⟩ := hsame
    refine .issued x hx (hcur.trans hx) htx hsent ?_
    rw [writesLeft_of_underWay (.inr (by simp [hwr])), writesLeft_of_sending hl hw]
    omega
  | writeOk x d hx hw q =>
    refine .kept q.cur (.inl q.txbuf) q.sent fun y _ => ?_
    rw [q.writesLeft_eq, writesLeft_of_underWay (.inl rfl),
      writesLeft_of_underWay (.inr (by simp [hw]))]
  | retried x hx hl hr q =>
    have hwrite : s.write = .none := linkInv_write_eq_none h (by simp [hl])
    refine .retried x hx q.cur q.txbuf q.sent ?_
    have hleft := writesLeft_of_sending (x := { x with retriesLeft := x.retriesLeft - 1 })
      (q.linkState : t.linkState = .sending) (q.write_eq_none_iff.mpr hwrite)
    rw [hleft, writesLeft_of_underWay (.inl hl)]
    show max (x.retriesLeft - 1) 1 = _
    omega
  | ended x u st resp hx hend => exact .ended x u st resp hx hend rfl
  | reset hev hl hs hc hr q =>
    obtain ⟨hnone, _⟩ := linkInv_of_free h hl
    exact .kept (q.cur.trans hnone.symm) (.inr hnone) q.sent fun y hy => by simp [hnone] at hy

/-- R270: only an exchange on its last attempt hands TIMEOUT to its host. -/
theorem Ending.writesLeft_of_timeout {s u : State} {x : Exchange} {st : Status} {resp : List Byte}
    (h : Ending s x u st resp) {c : Command}
    (hres : (Spec.answered u x.owner st resp).results = s.results ++ [.exchange c .timeout []]) :
    Spec.writesLeft s x = 0 := by
  obtain ⟨results, calls, heq, hhost, hneg⟩ := answered_eq u x.owner st resp
  rw [heq] at hres
  have hres : results = s.results ++ [.exchange c .timeout []] := hres
  rw [h.results] at hhost hneg
  cases howner : x.owner with
  | host c' =>
    rw [(hhost c' howner).1] at hres
    have hst : st = .timeout := by simp_all
    obtain ⟨hl, hr⟩ := h.timeout hst
    rw [writesLeft_of_underWay (.inl hl)]
    omega
  | negotiation n k =>
    rcases hneg n k howner with ⟨hresults, _⟩ | ⟨stage, hresults, _⟩ <;> simp [hresults] at hres

/-! ### The next event -/

theorem step_moved {s : State} (h : legalConfig s.cfg = true) (e : Event) :
    step (Spec.moved e s) = s.move e := step_of_cons (s := Spec.moved e s) rfl h

/-- However the link agent's move comes next, the step takes it. -/
theorem step_of_agentMoves {s : State} (hlegal : legalConfig s.cfg = true) (h : Spec.AgentMoves s) :
    ∃ events, step s = .next ({ s with events := events }.exchangeMove) := by
  rcases h with ⟨rest, hevents⟩ | ⟨hevents, hlock⟩
  · exact ⟨rest, step_of_cons hevents hlegal⟩
  · refine ⟨s.events, ?_⟩
    simp only [step_of_nil hevents hlegal, State.idleMove, hlock]
    rw [← hlock]

/-! ### The link agent's move -/

section
variable {s : State} {x : Exchange}

theorem exchangeMove_of_none (h : s.cur = none) : s.exchangeMove = s := by
  rw [State.exchangeMove, h]

theorem exchangeMove_of_sending (hl : s.linkState = .sending) (hx : s.cur = some x) :
    s.exchangeMove = if s.write = .none ∧ s.spacingMet = true then s.issue x else s := by
  simp only [State.exchangeMove, hx, hl]

theorem exchangeMove_of_awaiting (hx : s.cur = some x) (hl : s.linkState = .awaitingResponse) :
    s.exchangeMove = s.awaitBranch x := by
  simp only [State.exchangeMove, hx, hl]

/-! ### The branches of the wait (60_exceptions.md section 2) -/

theorem awaitBranch_of_closed (hr : s.rx.ready = false) (ho : s.transportOpen = false) :
    s.awaitBranch x = Spec.failed s x.owner .portError := by
  rw [← finish_eq_failed s x.owner (st := .portError) nofun]
  simp [State.awaitBranch, hr, ho]

theorem awaitBranch_of_timeout (hr : s.rx.ready = false) (ho : s.transportOpen = true)
    (hd : s.deadlinePassed = true) : s.awaitBranch x = s.timeoutPath x := by
  simp [State.awaitBranch, hr, ho, hd]

theorem awaitBranch_of_waiting (hr : s.rx.ready = false) (ho : s.transportOpen = true)
    (hd : s.deadlinePassed = false) : s.awaitBranch x = s := by
  simp [State.awaitBranch, hr, ho, hd]

theorem awaitBranch_of_ready (hr : s.rx.ready = true)
    (h : s.deadlinePassed = false ∨ s.transportOpen = false) :
    s.awaitBranch x = s.decodeFrame x := by
  rcases h with h | h <;> simp [State.awaitBranch, hr, h]

/-- R284: the tie. -/
theorem awaitBranch_of_tie (hr : s.rx.ready = true) (ho : s.transportOpen = true)
    (hd : s.deadlinePassed = true) :
    s.awaitBranch x =
      if (s.draw 2).1 = 0 then (s.draw 2).2.decodeFrame x else (s.draw 2).2.timeoutPath x := by
  simp [State.awaitBranch, hr, ho, hd]

/-! ### The timeout path (R270) -/

theorem timeoutPath_of_last (h : x.retriesLeft ≤ 1) :
    s.timeoutPath x = Spec.failed s x.owner .timeout := by
  rw [State.timeoutPath, if_pos h, finish_eq_failed s x.owner (st := .timeout) nofun]

theorem timeoutPath_of_more (h : 1 < x.retriesLeft) :
    s.timeoutPath x =
      { s with linkState := .sending, cur := some { x with retriesLeft := x.retriesLeft - 1 } } := by
  rw [State.timeoutPath, if_neg (Nat.not_le.mpr h)]

theorem timeoutPath_cur_eq_none_iff : (s.timeoutPath x).cur = none ↔ x.retriesLeft ≤ 1 := by
  by_cases h : x.retriesLeft ≤ 1
  · rw [State.timeoutPath, if_pos h, finish_eq_answered]
    simp [h]
  · simp [timeoutPath_of_more (Nat.not_le.mp h), h]

/-- The agent that times out takes the timeout path, having drawn or not. -/
theorem awaitBranch_of_timesOut (h : Spec.TimesOut s) :
    ∃ draws drawCount,
      s.awaitBranch x = { s with draws := draws, drawCount := drawCount }.timeoutPath x := by
  obtain ⟨_, hopen, hdeadline, hpath⟩ := h
  have hpassed : s.deadlinePassed = true := (deadlinePassed_iff s).mpr hdeadline
  cases hr : s.rx.ready with
  | false => exact ⟨s.draws, s.drawCount, awaitBranch_of_timeout hr hopen hpassed⟩
  | true =>
    have hone : (s.draw 2).1 = 1 := hpath.resolve_left (by simp [hr])
    obtain ⟨draws, drawCount, hdraw⟩ := draw_frame s 2
    exact ⟨draws, drawCount, by rw [awaitBranch_of_tie hr hopen hpassed, if_neg (by omega), hdraw]⟩

end

/-- Whether the agent times out does not depend on the moves still to come. -/
theorem timesOut_events {s : State} (events : List Event) (h : Spec.TimesOut s) :
    Spec.TimesOut { s with events := events } := by
  obtain ⟨hl, hopen, hdeadline, hpath⟩ := h
  refine ⟨hl, hopen, hdeadline, hpath.imp_right fun hone => ?_⟩
  rw [← hone]
  unfold State.draw
  split <;> simp_all

end Sys2Proof.Machine
end

section
/-! The statements about whole exchanges, step by step (spec/44_link_fsm.md sections 3 to 5). -/

namespace Sys2Proof.Proofs.Exchanges

open Sys2Proof Sys2Proof.Machine

/-- R280: an exchange starts with all its writes to spend. -/
theorem budget_of_begun {s t : State} (hc : ExchangeChange s t) (hnone : s.cur = none) {y : Exchange}
    (hy : t.cur = some y) :
    Spec.writesLeft t y = max y.retriesLeft 1 ∧ t.sent = s.sent ∧
      (∀ c, y.owner = .host c → y.retriesLeft = c.retry) ∧
      ∀ n k, y.owner = .negotiation n k → y.retriesLeft = n.retry := by
  cases hc with
  | kept hcur => simp [hcur, hnone] at hy
  | begun o c _ hcur hsent hl hw ho hn =>
    cases hcur.symm.trans hy
    refine ⟨writesLeft_of_sending hl hw, hsent, fun c' hc' => ?_, hn⟩
    rw [ho c' hc']
    rfl
  | issued x hx => simp [hnone] at hx
  | retried x hx => simp [hnone] at hx
  | ended x u st resp hx => simp [hnone] at hx

/-- R270: a step of an exchange spends one write exactly when it hands TXBUF over. -/
theorem budget_of_kept {s t : State} (hc : ExchangeChange s t) {x y : Exchange} (hx : s.cur = some x)
    (hy : t.cur = some y) :
    y.owner = x.owner ∧ y.addr = x.addr ∧ t.txbuf = s.txbuf ∧
      ((t.sent = s.sent ∧ Spec.writesLeft t y = Spec.writesLeft s x) ∨
        (t.sent = s.sent ++ [s.txbuf] ∧ Spec.writesLeft t y + 1 = Spec.writesLeft s x)) := by
  cases hc with
  | kept hcur htx hsent hleft =>
    cases (hcur.trans hx).symm.trans hy
    exact ⟨rfl, rfl, htx.resolve_right (by simp [hx]), .inl ⟨hsent, hleft x hx⟩⟩
  | issued x' hx' hcur htx hsent hleft =>
    cases hx'.symm.trans hx
    cases hcur.symm.trans hy
    exact ⟨rfl, rfl, htx, .inr ⟨hsent, hleft⟩⟩
  | begun o c hnone => simp [hnone] at hx
  | retried x' hx' hcur htx hsent hleft =>
    cases hx'.symm.trans hx
    cases hcur.symm.trans hy
    exact ⟨rfl, rfl, htx, .inl ⟨hsent, hleft⟩⟩
  | ended x' u st resp hx' hend ht => simp [ht] at hy

/-- A step that leaves no exchange where there was one ends it. -/
theorem ending_of_cur_none {s t : State} (hc : ExchangeChange s t) {x : Exchange} (hx : s.cur = some x)
    (hnone : t.cur = none) :
    ∃ u st resp, Ending s x u st resp ∧ t = Spec.answered u x.owner st resp := by
  cases hc with
  | kept hcur => simp [← hcur, hnone] at hx
  | issued x' hx' hcur => simp [hnone] at hcur
  | begun o c _ hcur => simp [hnone] at hcur
  | retried x' hx' hcur => simp [hnone] at hcur
  | ended x' u st resp hx' hend ht =>
    cases hx'.symm.trans hx
    exact ⟨u, st, resp, hend, ht⟩

/-- R270: the timeout path ends the exchange exactly when no write is left. -/
theorem cur_eq_none_iff_of_timesOut {s t : State} {x : Exchange} (hx : s.cur = some x)
    (hlegal : legalConfig s.cfg = true) (hmoves : Spec.AgentMoves s) (htimes : Spec.TimesOut s)
    (hstep : step s = .next t) : t.cur = none ↔ Spec.writesLeft s x = 0 := by
  obtain ⟨events, hagent⟩ := step_of_agentMoves hlegal hmoves
  obtain ⟨draws, drawCount, hpath⟩ :=
    awaitBranch_of_timesOut (s := { s with events := events }) (x := x) (timesOut_events events htimes)
  obtain ⟨hl, _⟩ := htimes
  have hwait := exchangeMove_of_awaiting (s := { s with events := events }) hx hl
  rw [hagent, hwait, hpath] at hstep
  cases hstep
  rw [timeoutPath_cur_eq_none_iff, writesLeft_of_underWay (.inl hl)]
  omega

/-- Settles O33: each change of a step, seen from the exchange's registers. -/
theorem transmissionBudget : Obligations.TransmissionBudget := by
  intro s t hinv hstep
  have hc := (step_change s t hstep).exchangeChange hinv
  refine ⟨fun hnone y hy => budget_of_begun hc hnone hy, fun x hx y hy => budget_of_kept hc hx hy,
    fun x hx hnone => ?_, fun x hx hlegal hmoves htimes =>
      cur_eq_none_iff_of_timesOut hx hlegal hmoves htimes hstep⟩
  obtain ⟨u, st, resp, hend, rfl⟩ := ending_of_cur_none hc hx hnone
  exact ⟨by rw [answered_sent, hend.sent], fun c hres => hend.writesLeft_of_timeout hres⟩

/-- An exchange's end without a decoded response: its host gets an empty `resp`, its NEGOTIATE fails. -/
theorem results_of_failed {u : State} {o : Owner} {st : Status} (hst : ∀ b, st ≠ .resp b) :
    (∀ c, o = .host c → (Spec.answered u o st []).results = u.results ++ [.exchange c st []]) ∧
    (∀ n k, o = .negotiation n k → (Spec.answered u o st []).calls = u.calls ∧
      (Spec.answered u o st []).results = u.results ++ [.negotiate n.addr none]) := by
  rw [← finish_eq_answered, finish_eq_failed u o hst]
  constructor
  · rintro c rfl
    rfl
  · rintro n k rfl
    exact ⟨rfl, rfl⟩

/-- Settles O35: the one change that ends an exchange closes it, with what its ending established. -/
theorem exchangeEndsOnce : Obligations.ExchangeEndsOnce := by
  intro s t x hinv hx hstep hnone
  obtain ⟨u, st, resp, hend, rfl⟩ :=
    ending_of_cur_none ((step_change s t hstep).exchangeChange hinv) hx hnone
  obtain ⟨results, calls, heq, hhost, hneg⟩ := answered_eq u x.owner st resp
  rw [hend.results, hend.calls] at hhost hneg
  have hcalls : (Spec.answered u x.owner st resp).calls = calls := by rw [heq]
  have hresults : (Spec.answered u x.owner st resp).results = results := by rw [heq]
  refine ⟨answered_lock .., answered_linkState .., answered_deadline .., answered_write ..,
    (answered_txbuf ..).trans hend.txbuf, (answered_lastTx ..).trans hend.lastTx,
    (answered_refused ..).trans hend.refused, fun c hc => ?_, fun n k hn => ?_, ?_⟩
  · rw [hcalls, (hhost c hc).2]
  · rw [hcalls, hresults]
    exact (hneg n k hn).imp (fun ⟨hr, hc⟩ => ⟨hc, hr⟩) fun ⟨stage, hr, hc⟩ => ⟨stage, hc, hr⟩
  rw [answered_seq, answered_ctr, answered_rx]
  rcases hend.table with ⟨hseq, hctr, rfl, hbusy, hst⟩ | ⟨hl, hr, rxEnc, status, hdec, hseq, hctr, rfl⟩
  · obtain ⟨hfailed, habandoned⟩ := results_of_failed (u := u) (o := x.owner) hst
    rw [hend.results] at hfailed habandoned
    refine .inl ⟨hseq, hctr, fun c hc => ⟨st, ?_, hfailed c hc⟩, fun n k hn => ?_⟩
    · cases st with
      | resp b => exact absurd rfl (hst b)
      | busy => exact absurd rfl hbusy
      | timeout => exact .inl rfl
      | packetError e => exact .inr (.inr ⟨e, rfl⟩)
      | portError => exact .inr (.inl rfl)
    · exact hend.calls ▸ habandoned n k hn
  · refine .inr ⟨rxEnc, status, resp, hl, hr, hdec, hseq, hctr, fun c hc => ?_⟩
    rw [hresults, (hhost c hc).1]

end Sys2Proof.Proofs.Exchanges
end

section
/-! SUPPORT. The decoder reads every row's operands back from its encoding (spec/30_encoding.md sections 4
and 5). -/

namespace Sys2Proof

open Sys2Proof.Machine

/-- A command code that no row has of its own is read as OTHER_COMMAND's (30_encoding.md R118). -/
theorem decodeCommand_of_not_reserved {code : Byte} (h : reservedCommandCodes.contains code = false)
    (bs : List Byte) :
    decodeCommand (code :: bs) = (do
      let (params, bs) ← readList bs
      let (addr, bs) ← readByte bs
      let (enc, bs) ← readFlag bs
      let (key, bs) ← readKey bs
      let (retry, bs) ← readNat bs
      let (timeout, bs) ← readNat bs
      .ok (.otherCommand code params addr enc key retry timeout, bs)) := by
  have hne (b : Byte) (hb : b ∈ reservedCommandCodes) : code.toNat ≠ b.toNat := by
    rw [ne_eq, BitVec.toNat_inj]
    rintro rfl
    simp [hb] at h
  have h11 := hne 0x11 (by decide)
  have h4A := hne 0x4A (by decide)
  have h4B := hne 0x4B (by decide)
  have h4C := hne 0x4C (by decide)
  rw [decodeCommand]
  split
  · exact absurd ‹_› h11
  · exact absurd ‹_› h4A
  · exact absurd ‹_› h4B
  · exact absurd ‹_› h4C
  · rfl

/-- A status that no row has of its own is read as OTHER_STATUS's (30_encoding.md R117, R120). -/
theorem decodeResponse_of_not_reserved {status : Byte}
    (h : reservedStatusCodes.contains status = false) (bs : List Byte) :
    decodeResponse (status :: bs) = (do
      let (sa, bs) ← readByte bs
      let (data, bs) ← readList bs
      .ok (.otherStatus status sa data, bs)) := by
  have hne (b : Byte) (hb : b ∈ reservedStatusCodes) : status.toNat ≠ b.toNat := by
    rw [ne_eq, BitVec.toNat_inj]
    rintro rfl
    simp [hb] at h
  have h7E := hne 0x7E (by decide)
  have hF0 := hne 0xF0 (by decide)
  have hF5 := hne 0xF5 (by decide)
  rw [decodeResponse]
  split
  · exact absurd ‹_› h7E
  · exact absurd ‹_› hF0
  · exact absurd ‹_› hF5
  · rfl

/-- COMMAND_NOT_PROCESSED's sub-reason byte is its first data byte, never DEVICE_BUSY's (30_encoding.md
R117). -/
theorem decodeResponse_commandNotProcessed (sa : Byte) (data rest : List Byte)
    (h : data.head? ≠ some 3) :
    decodeResponse (encode (.commandNotProcessed sa data) ++ rest) =
      .ok (.commandNotProcessed sa data, rest) := by
  have hsub : ¬data.head?.getD 0 = 3 := by
    cases data with
    | nil => decide
    | cons b bs => simpa using h
  simpa [encode, decodeResponse, bind, Except.bind] using hsub

/-- Each row reads its own encoding back, whatever follows. -/
theorem decodeRow_encode (i : Instr) (h : i.wf = true) (rest : List Byte) :
    decodeRow i.format (encode i ++ rest) = .ok (i, rest) := by
  cases i with
  | otherCommand code params addr enc key retry timeout =>
    simp only [Instr.wf, Bool.not_eq_true'] at h
    simp [Instr.format, encode, decodeRow, decodeCommand_of_not_reserved h, bind, Except.bind]
  | commandNotProcessed sa data =>
    simp only [Instr.wf, Bool.and_eq_true, decide_eq_true_eq] at h
    exact decodeResponse_commandNotProcessed sa data rest h.2
  | otherStatus status sa data =>
    simp only [Instr.wf, Bool.and_eq_true, Bool.not_eq_true'] at h
    simp [Instr.format, encode, decodeRow, decodeResponse_of_not_reserved h.2, bind, Except.bind]
  | sync => simp [Instr.format, encode, decodeRow, decodeCommand, bind, Except.bind]
  | setGenerator => simp [Instr.format, encode, decodeRow, decodeCommand, bind, Except.bind]
  | setModulus => simp [Instr.format, encode, decodeRow, decodeCommand, bind, Except.bind]
  | requestKeyExchange => simp [Instr.format, encode, decodeRow, decodeCommand, bind, Except.bind]
  | ok => simp [Instr.format, encode, decodeRow, decodeResponse, bind, Except.bind]
  | deviceBusy => simp [Instr.format, encode, decodeRow, decodeResponse, bind, Except.bind]
  | encryptedPacket => simp [Instr.format, encode, decodeRow, decodeResponse, bind, Except.bind]
  | _ => simp [Instr.format, encode, decodeRow, decodeOperation, bind, Except.bind]

theorem decode_encode (i : Instr) (h : i.wf = true) : decode i.format (encode i) = .ok i := by
  have hrow := decodeRow_encode i h []
  rw [List.append_nil] at hrow
  simp [decode, hrow, h, bind, Except.bind]

/-- A first byte that no operation has selects none (30_encoding.md R121). -/
theorem decodeOperation_of_not_selector {b : Byte} (h : b = 0x00 ∨ b = 0x0F ∨ 0x14 ≤ b.toNat)
    (bs : List Byte) : decodeOperation (b :: bs) = .error (.unknownSelector b) := by
  have hn : b.toNat = 0x00 ∨ b.toNat = 0x0F ∨ 0x14 ≤ b.toNat := by
    rcases h with rfl | rfl | h
    · exact .inl rfl
    · exact .inr (.inl rfl)
    · exact .inr (.inr h)
  rw [decodeOperation]
  split
  any_goals omega
  rfl

end Sys2Proof
end

section
/-! The statements about encoding (spec/30_encoding.md sections 4 and 5). -/

namespace Sys2Proof.Proofs.Encoding

open Sys2Proof Sys2Proof.Machine

/-- Settles O55: the row reads itself back, no byte is left over, and it is well formed. -/
theorem decodeEncode : Obligations.DecodeEncode := decode_encode

/-- Settles O56: the step takes the message off the list and performs it. -/
theorem stepRunsDecoded : Obligations.StepRunsDecoded := by
  intro s fmt bytes rest hevents
  refine ⟨fun hlegal => ?_, fun hillegal => ?_⟩
  · have hstep : step s = { s with events := rest }.perform fmt bytes := step_of_cons hevents hlegal
    have hrefused {e : DecodeError} (he : decode fmt bytes = .error e) :
        step s = .refused (.undecodable e) := by
      simp only [hstep, State.perform, he]
    refine ⟨fun i hi => ?_, fun e => hrefused, fun b bs hfmt hbytes hb => hrefused ?_⟩
    · simp only [hstep, State.perform, hi]
    · simp [hfmt, hbytes, decode, decodeRow, decodeOperation_of_not_selector hb, bind, Except.bind]
  · rw [step_of_illegal hillegal, hevents]
    exact refused_refuse _ _

/-- Settles O58: a closed fact about eight words. -/
theorem tableWordsDecode : Obligations.TableWordsDecode :=
  ⟨by decide, by decide, by decide, by decide, by decide, by decide, by decide, by decide⟩

end Sys2Proof.Proofs.Encoding
end

section
/-! SUPPORT. What the link agent makes of a ready frame and of the transport's answer (spec/44_link_fsm.md
sections 3 and 4). -/

namespace Sys2Proof.Machine

open Sys2Proof

/-! ### DECODE (R271-R276) -/

/-- DECRYPT's answer in a state, in the terms of the codec (R200). -/
theorem opens_iff (s : State) (p : List Byte) (k : Word64) (ctr : Word32)
    (r : Except PacketReason (List Byte)) :
    Spec.Opens s p k ctr r ↔ decryptPayload s.cfg p k ctr = r := by
  simp [Spec.Opens, exec, execDecrypt, State.emit]

section
variable {s : State} {x : Exchange}

/-- R285: a response needs a status byte. -/
theorem conclusion_nil (v : Bool) :
    (s.setRxEnc x v).conclusion x v [] = Spec.failed s x.owner (.packetError .empty) := by
  rw [← finish_eq_failed s x.owner (st := .packetError .empty) nofun]
  rfl

/-- R273-R276: a decoded response toggles SEQ, counts CTR if both sides were encrypted, and ends the
exchange. -/
theorem conclusion_cons (v : Bool) (status : Byte) (data : List Byte) :
    (s.setRxEnc x v).conclusion x v (status :: data) =
      Spec.answered { s with seq := Spec.toggled s x.addr, ctr := Spec.counted s x v } x.owner
        (Spec.resultOf s.cfg status data) data := by
  rw [← finish_eq_answered, ← statusOf_eq]
  simp only [State.conclusion, State.succeed, Spec.counted, Bool.and_eq_true]
  split <;> rfl

theorem decodeFrame_of_plain_payload (h : isEncrypted s.cfg (Spec.payload s.rx.buf) = false) :
    s.decodeFrame x = (s.setRxEnc x false).conclusion x false (Spec.payload s.rx.buf) := by
  rw [State.decodeFrame, payloadOf_eq, State.decodePayload, h, if_neg Bool.false_ne_true]

theorem decodeFrame_of_nil (hp : Spec.payload s.rx.buf = []) :
    s.decodeFrame x = Spec.failed s x.owner (.packetError .empty) := by
  rw [decodeFrame_of_plain_payload (by rw [hp]; rfl), hp, conclusion_nil]

/-- R271-R275: a response in plain text counts no counter. -/
theorem decodeFrame_of_plain {status : Byte} {data : List Byte}
    (hp : Spec.payload s.rx.buf = status :: data) (h : status ≠ s.cfg.encMarker) :
    s.decodeFrame x =
      Spec.answered { s with seq := Spec.toggled s x.addr } x.owner
        (Spec.resultOf s.cfg status data) data := by
  have hcount : Spec.counted s x false = s.ctr := by simp [Spec.counted]
  rw [decodeFrame_of_plain_payload (by simp [hp, isEncrypted, h]), hp, conclusion_cons, hcount]

variable {cipher : List Byte} (hp : Spec.payload s.rx.buf = s.cfg.encMarker :: cipher)
include hp

theorem decodeFrame_of_noKey (hk : x.key = none) :
    s.decodeFrame x = Spec.failed s x.owner (.packetError .noKey) := by
  rw [← finish_eq_failed s x.owner (st := .packetError .noKey) nofun]
  simp only [State.decodeFrame, payloadOf_eq, hp, State.decodePayload, isEncrypted, List.head?_cons,
    beq_self_eq_true, if_true, hk]
  rfl

variable {k : Word64} (hk : x.key = some k)
include hk

theorem decodeFrame_of_error {e : PacketReason}
    (hr : decryptPayload s.cfg (s.cfg.encMarker :: cipher) k s.ctr[slot x.addr] = .error e) :
    s.decodeFrame x = Spec.failed s x.owner (.packetError e) := by
  rw [← finish_eq_failed s x.owner (st := .packetError e) nofun]
  simp only [State.decodeFrame, payloadOf_eq, hp, State.decodePayload, isEncrypted, List.head?_cons,
    beq_self_eq_true, if_true, hk, State.ctrAt, State.setRxEnc_cfg, State.setRxEnc_ctr, hr]
  rfl

theorem decodeFrame_of_opened {d : List Byte}
    (hr : decryptPayload s.cfg (s.cfg.encMarker :: cipher) k s.ctr[slot x.addr] = .ok d) :
    s.decodeFrame x = (s.setRxEnc x true).conclusion x true d := by
  simp only [State.decodeFrame, payloadOf_eq, hp, State.decodePayload, isEncrypted, List.head?_cons,
    beq_self_eq_true, if_true, hk, State.ctrAt, State.setRxEnc_cfg, State.setRxEnc_ctr, hr]

end

/-- The counters after a response in an encrypted packet (R276). -/
theorem counted_true (s : State) (x : Exchange) :
    Spec.counted s x true =
      if x.enc = true then s.ctr.set (slot x.addr) (s.ctr[slot x.addr] + 1) else s.ctr := by
  simp [Spec.counted]

theorem conclusion_deadline (s : State) (x : Exchange) (deadline : Option Nat) (v : Bool)
    (d : List Byte) :
    ({ s with deadline := deadline }.setRxEnc x v).conclusion x v d =
      (s.setRxEnc x v).conclusion x v d := by
  cases d with
  | nil => rfl
  | cons status data =>
    simp only [State.conclusion, State.succeed]
    split <;> rfl

/-- An exchange's end discards the deadline, so DECODE does not depend on it. -/
theorem decodeFrame_deadline (s : State) (x : Exchange) (deadline : Option Nat) :
    { s with deadline := deadline }.decodeFrame x = s.decodeFrame x := by
  simp only [State.decodeFrame, State.decodePayload, conclusion_deadline]
  split
  · cases x.key with
    | none => rfl
    | some k =>
      dsimp only [State.setRxEnc_cfg, State.ctrAt, State.setRxEnc_ctr]
      cases decryptPayload s.cfg (payloadOf s.rx.buf) k s.ctr[slot x.addr] <;> rfl
  · rfl

/-! ### The transport's answer (R268, R279) -/

section
variable {s : State} {x : Exchange}

theorem writeAnswered_of_none (hw : s.write = .none) (good : Bool) : s.writeAnswered good = s := by
  simp only [State.writeAnswered, hw]

theorem writeAnswered_of_ok (hx : s.cur = some x) (hw : s.write = .pending false)
    (ho : s.transportOpen = true) :
    s.writeAnswered true = { s with write := .none, linkState := .awaitingResponse } := by
  simp [State.writeAnswered, hw, hx, ho]

theorem writeAnswered_of_fail {doomed : Bool} (hx : s.cur = some x) (hw : s.write = .pending doomed)
    {good : Bool} (h : good = false ∨ doomed = true ∨ s.transportOpen = false) :
    s.writeAnswered good = Spec.failed s x.owner .portError := by
  have hnot : (good && !doomed && s.transportOpen) = false := by
    rcases h with h | h | h <;> simp [h]
  rw [← finish_eq_failed s x.owner (st := .portError) nofun]
  simp only [State.writeAnswered, hw, hx, hnot, Bool.false_eq_true, if_false]

end

/-! ### The agent's and the transport's moves as the next event -/

theorem step_exchange {s : State} (hlegal : legalConfig s.cfg = true) :
    step (Spec.moved .exchange s) = .next s.exchangeMove := step_moved hlegal .exchange

theorem step_written {s : State} (hlegal : legalConfig s.cfg = true) (good : Bool) :
    step (Spec.moved (.written good) s) = .next (s.writeAnswered good) :=
  step_moved hlegal (.written good)

/-- A ready frame is decoded, whatever the time, where no deadline stands. -/
theorem step_exchange_of_no_deadline {s : State} {x : Exchange} (hlegal : legalConfig s.cfg = true)
    (hx : s.cur = some x) (hl : s.linkState = .awaitingResponse) (hr : s.rx.ready = true) :
    step (Spec.moved .exchange { s with deadline := none }) = .next (s.decodeFrame x) := by
  have hwait := exchangeMove_of_awaiting (s := { s with deadline := none }) hx hl
  rw [awaitBranch_of_ready (s := { s with deadline := none }) hr (.inl rfl), decodeFrame_deadline] at hwait
  rw [step_exchange (s := { s with deadline := none }) hlegal, hwait]

end Sys2Proof.Machine
end

section
/-! The statements about the steps of an exchange (spec/44_link_fsm.md sections 3 and 4, 60_exceptions.md
section 2). -/

namespace Sys2Proof.Proofs.Steps

open Sys2Proof Sys2Proof.Machine

/-- Settles O24: the issue is one move, its answer another, and each looks whether it is its turn. -/
theorem writeIssuedAndAnswered : Obligations.WriteIssuedAndAnswered := by
  constructor
  · intro s u x hlegal hx hl hw hspacing hu
    have hissue : s.issue x = u := hu.symm
    have hcfg : legalConfig u.cfg = true := hu ▸ hlegal
    have hcur : u.cur = some x := hu ▸ hx
    have hwrite : u.write = .pending (!s.transportOpen) := by rw [hu]
    have hopen : u.transportOpen = s.transportOpen := by rw [hu]
    refine ⟨?_, fun ho => ?_, fun good hfail => ?_⟩
    · rw [step_exchange hlegal, exchangeMove_of_sending hl hx,
        if_pos ⟨hw, (spacingMet_iff s).mpr hspacing⟩, hissue]
    · rw [step_written hcfg, writeAnswered_of_ok hcur (by rw [hwrite, ho]; rfl) (hopen.trans ho)]
    · have h : good = false ∨ (!s.transportOpen) = true ∨ u.transportOpen = false :=
        hfail.imp_right fun ho => .inr (hopen.trans ho)
      rw [step_written hcfg, writeAnswered_of_fail hcur hwrite h]
  · intro s hlegal
    refine ⟨fun hl hwait => ?_, fun hnone => ?_, fun good hw => ?_⟩
    · rw [step_exchange hlegal]
      cases hx : s.cur with
      | none => rw [exchangeMove_of_none hx]
      | some x =>
        have hnot : ¬(s.write = .none ∧ s.spacingMet = true) := by
          rintro ⟨hw, hmet⟩
          rcases hwait with hpending | ⟨l, hlast, hearly⟩
          · exact hpending hw
          · exact absurd ((spacingMet_iff s).mp hmet l hlast) (Nat.not_le.mpr hearly)
        rw [exchangeMove_of_sending hl hx, if_neg hnot]
    · rw [step_exchange hlegal, exchangeMove_of_none hnone]
    · rw [step_written hlegal, writeAnswered_of_none hw]

/-- Settles O26: the timeout path looks at the attempts left. -/
theorem timeoutRetries : Obligations.TimeoutRetries := by
  intro s x d hlegal hx hl hr ho hdeadline hd
  have hmove : step (Spec.moved .exchange s) = .next (s.timeoutPath x) := by
    rw [step_exchange hlegal, exchangeMove_of_awaiting hx hl,
      awaitBranch_of_timeout hr ho ((deadlinePassed_iff s).mpr ⟨d, hdeadline, hd⟩)]
  exact ⟨fun hlast => by rw [hmove, timeoutPath_of_last hlast],
    fun hmore => by rw [hmove, timeoutPath_of_more hmore]⟩

theorem deadlinePassed_eq_false {s : State} (h : ∀ d, s.deadline = some d → s.now < d) :
    s.deadlinePassed = false := by
  rw [← Bool.not_eq_true, deadlinePassed_iff]
  rintro ⟨d, hdeadline, hd⟩
  exact absurd (h d hdeadline) (Nat.not_lt.mpr hd)

/-- Settles O27: each branch of the wait by its own lemma; in the tie the next draw chooses. -/
theorem waitBranches : Obligations.WaitBranches := by
  intro s x hlegal hx hl
  have hmove : step (Spec.moved .exchange s) = .next (s.awaitBranch x) := by
    rw [step_exchange hlegal, exchangeMove_of_awaiting hx hl]
  refine ⟨fun hr ho => ?_, fun hr ho hwait => ?_, fun d v rest hr ho hdeadline hd hdraws => ?_⟩
  · rw [hmove, awaitBranch_of_closed hr ho]
  · rw [hmove, awaitBranch_of_waiting hr ho (deadlinePassed_eq_false hwait)]
  have htie := awaitBranch_of_tie (x := x) hr ho ((deadlinePassed_iff s).mpr ⟨d, hdeadline, hd⟩)
  rw [draw_cons s 2 v rest hdraws] at htie
  refine ⟨fun heven => ?_, fun hodd hlast => ?_, fun hodd hmore => ?_⟩
  · rw [hmove, htie, if_pos heven,
      step_exchange_of_no_deadline (s := { s with draws := rest }) hlegal hx hl hr]
  · rw [hmove, htie, if_neg (by omega), timeoutPath_of_last hlast]
  · rw [hmove, htie, if_neg (by omega), timeoutPath_of_more hmore]

/-- Settles O28: DECODE's cases, by the frame's first payload byte and the exchange's key. -/
theorem responseDecoded : Obligations.ResponseDecoded := by
  intro s x hlegal hx hl hr hready
  have hmove : step (Spec.moved .exchange s) = .next (s.decodeFrame x) := by
    rw [step_exchange hlegal, exchangeMove_of_awaiting hx hl,
      awaitBranch_of_ready hr (hready.imp_left deadlinePassed_eq_false)]
  rw [hmove]
  refine ⟨fun hp => ?_, fun st data hp hst => ?_, fun cipher hp hk => ?_,
    fun cipher k r hp hk hopens => ?_⟩
  · rw [decodeFrame_of_nil hp]
  · rw [decodeFrame_of_plain hp hst]
  · rw [decodeFrame_of_noKey hp hk]
  rw [opens_iff] at hopens
  refine ⟨?_, ?_, ?_⟩
  · rintro e rfl
    rw [decodeFrame_of_error hp hk hopens]
  · rintro rfl
    rw [decodeFrame_of_opened hp hk hopens, conclusion_nil]
  · rintro st data rfl
    rw [decodeFrame_of_opened hp hk hopens, conclusion_cons, counted_true]

end Sys2Proof.Proofs.Steps
end

section
/-! SUPPORT. Runs of several steps, and an attempt that no response comes to (spec/44_link_fsm.md
section 5). -/

namespace Sys2Proof.Machine

open Sys2Proof

theorem run_of_step {s t : State} (h : step s = .next t) (n : Nat) :
    Host.Core.run Sys2Proof.core (n + 1) s = Host.Core.run Sys2Proof.core n t := by
  have hcore : Host.Core.step Sys2Proof.core s = .next t := h
  simp only [Host.Core.run, hcore]

theorem exec_time_of_le {t : Nat} {s : State} (h : s.now ≤ t) :
    exec (.time t) s = .next { s with now := t } := if_neg (Nat.not_lt.mpr h)

theorem exec_time_of_lt {t : Nat} {s : State} (h : t < s.now) :
    exec (.time t) s = .refused .timeBackwards := if_pos h

/-- R341: a TIME message sets the time. -/
theorem step_time {s : State} (hlegal : legalConfig s.cfg = true) {t : Nat} (ht : s.now ≤ t)
    {rest : List Event} (hevents : s.events = .operation .operation (encode (.time t)) :: rest) :
    step s = .next { s with events := rest, now := t } := by
  have hdecode : decode .operation (encode (.time t)) = .ok (.time t) := decode_encode (.time t) rfl
  rw [step_of_cons hevents hlegal, State.move, State.perform, hdecode]
  exact exec_time_of_le (s := { s with events := rest }) ht

section
variable {s : State} {x : Exchange} {rest : List Event} (hlegal : legalConfig s.cfg = true)
  (hx : s.cur = some x)
include hlegal hx

/-- R267, R268: the spacing has passed, and the write is issued. -/
theorem step_issue (hl : s.linkState = .sending) (hw : s.write = .none)
    (hspacing : ∀ l, s.lastTx = some l → l + s.cfg.minSpacing ≤ s.now)
    (hevents : s.events = .exchange :: rest) :
    step s = .next ({ s with events := rest }.issue x) := by
  have hturn := exchangeMove_of_sending (s := { s with events := rest }) hl hx
  rw [if_pos ⟨hw, (spacingMet_iff _).mpr hspacing⟩] at hturn
  rw [step_of_cons hevents hlegal, State.move, hturn]

/-- R268: the transport answers `ok`. -/
theorem step_writtenOk (hw : s.write = .pending false) (ho : s.transportOpen = true)
    (hevents : s.events = .written true :: rest) :
    step s = .next { s with events := rest, write := .none, linkState := .awaitingResponse } := by
  have hanswer := writeAnswered_of_ok (s := { s with events := rest }) hx hw ho
  rw [step_of_cons hevents hlegal, State.move, hanswer]

/-- R269, R270: the deadline has passed and no frame is ready. -/
theorem step_timeout (hl : s.linkState = .awaitingResponse) (hr : s.rx.ready = false)
    (ho : s.transportOpen = true) {d : Nat} (hdeadline : s.deadline = some d) (hd : d ≤ s.now)
    (hevents : s.events = .exchange :: rest) :
    step s = .next ({ s with events := rest }.timeoutPath x) := by
  have hpassed : { s with events := rest }.deadlinePassed = true :=
    (deadlinePassed_iff _).mpr ⟨d, hdeadline, hd⟩
  have hwait := exchangeMove_of_awaiting (s := { s with events := rest }) hx hl
  rw [awaitBranch_of_timeout (s := { s with events := rest }) hr ho hpassed] at hwait
  rw [step_of_cons hevents hlegal, State.move, hwait]

end

/-- The state in which an attempt's deadline has passed: the write went out at `t` and was answered, it is
`u` now, no frame is ready, and `rest` is still to come. -/
def State.attempted (s : State) (x : Exchange) (t u : Nat) (rest : List Event) : State :=
  { s with
    linkState := .awaitingResponse
    rx := Deframer.rxReset x.addr
    lastTx := some t
    deadline := some (t + x.timeout)
    now := u
    write := .none
    sent := s.sent ++ [s.txbuf]
    events := rest }

/-- The first four moves of an attempt wait out the spacing and the deadline, and the fifth takes the
timeout path (R267, R268, R270). -/
theorem run_silentAttempt {s : State} {x : Exchange} {t u : Nat} {rest : List Event}
    (hlegal : legalConfig s.cfg = true) (hx : s.cur = some x) (hl : s.linkState = .sending)
    (hw : s.write = .none) (ho : s.transportOpen = true) (ht : s.now ≤ t)
    (hspacing : ∀ l, s.lastTx = some l → l + s.cfg.minSpacing ≤ t) (hu : t + x.timeout ≤ u)
    (hevents : s.events = Spec.silentAttempt t u ++ rest) (n : Nat) :
    Host.Core.run Sys2Proof.core (n + 5) s =
      Host.Core.run Sys2Proof.core n ((s.attempted x t u rest).timeoutPath x) := by
  have hlater : t ≤ u := by omega
  have hsound : Write.pending (!s.transportOpen) = .pending false := by rw [ho]; rfl
  have hevents : s.events = .operation .operation (encode (.time t)) :: .exchange :: .written true ::
      .operation .operation (encode (.time u)) :: .exchange :: rest := hevents
  calc Host.Core.run Sys2Proof.core (n + 5) s
      = Host.Core.run Sys2Proof.core (n + 4) _ := run_of_step (step_time hlegal ht hevents) _
    _ = Host.Core.run Sys2Proof.core (n + 3) _ :=
      run_of_step
        (step_issue (s := { s with now := t, events := _ }) hlegal hx hl hw hspacing rfl) _
    _ = Host.Core.run Sys2Proof.core (n + 2) _ :=
      run_of_step
        (step_writtenOk (s := { s with now := t, events := _ }.issue x) hlegal hx hsound ho rfl) _
    _ = Host.Core.run Sys2Proof.core (n + 1) (s.attempted x t u (.exchange :: rest)) :=
      run_of_step (step_time (s := { s.attempted x t t _ with now := t }) hlegal hlater rfl) _
    _ = Host.Core.run Sys2Proof.core n ((s.attempted x t u rest).timeoutPath x) :=
      run_of_step
        (step_timeout (s := s.attempted x t u _) hlegal hx rfl rfl ho rfl hu rfl) _

end Sys2Proof.Machine
end

section
/-! The statement about a silent exchange (spec/44_link_fsm.md section 5). -/

namespace Sys2Proof.Proofs.Silence

open Sys2Proof Sys2Proof.Machine

/-- What the end of a silent exchange leaves, told from the state its attempts began in. -/
structure TimedOut (s t : State) (c : Command) (writes : Nat) (events : List Event) : Prop where
  sent : t.sent = s.sent ++ List.replicate writes s.txbuf
  results : t.results = s.results ++ [.exchange c .timeout []]
  lock : t.lock = .free
  linkState : t.linkState = .idle
  cur : t.cur = none
  seq : t.seq = s.seq
  ctr : t.ctr = s.ctr
  events : t.events = events

/-- Each attempt but the last is followed by one with a retry less (R270). -/
theorem run_silence (c : Command) (events : List Event) (times : List (Nat × Nat)) (s : State)
    (x : Exchange) (hlegal : legalConfig s.cfg = true) (hx : s.cur = some x)
    (hc : x.owner = .host c) (hl : s.linkState = .sending) (hw : s.write = .none)
    (ho : s.transportOpen = true) (hlen : times.length = max x.retriesLeft 1)
    (hpaced : Spec.Paced s.cfg.minSpacing x.timeout s.lastTx s.now times)
    (hevents : s.events = Spec.silence times ++ events) :
    ∃ t, Host.Core.run Sys2Proof.core (5 * times.length) s = .next t ∧
      TimedOut s t c (max x.retriesLeft 1) events := by
  induction times generalizing s x with
  | nil => simp only [List.length_nil] at hlen; omega
  | cons first rest ih =>
    obtain ⟨t, u⟩ := first
    obtain ⟨ht, hspacing, hu, hrest⟩ := hpaced
    have hqueue : s.events = Spec.silentAttempt t u ++ (Spec.silence rest ++ events) := by
      rw [hevents, Spec.silence, List.append_assoc]
    have hrun := run_silentAttempt hlegal hx hl hw ho ht hspacing hu hqueue (5 * rest.length)
    rw [List.length_cons, Nat.mul_succ, hrun]
    rw [List.length_cons] at hlen
    by_cases hlast : x.retriesLeft ≤ 1
    · have hnil : rest = [] := List.eq_nil_of_length_eq_zero (by omega)
      subst hnil
      rw [timeoutPath_of_last hlast, hc]
      refine ⟨_, rfl, ⟨?_, rfl, rfl, rfl, rfl, rfl, rfl, rfl⟩⟩
      rw [Nat.max_eq_right hlast]
      rfl
    · have hmore : 1 < x.retriesLeft := Nat.not_le.mp hlast
      rw [timeoutPath_of_more hmore]
      obtain ⟨v, hv, hend⟩ := ih
        { s.attempted x t u (Spec.silence rest ++ events) with
          linkState := .sending
          cur := some { x with retriesLeft := x.retriesLeft - 1 } }
        { x with retriesLeft := x.retriesLeft - 1 } hlegal rfl hc rfl rfl ho
        (by show rest.length = max (x.retriesLeft - 1) 1; omega) hrest rfl
      refine ⟨v, hv, ⟨?_, hend.results, hend.lock, hend.linkState, hend.cur, hend.seq, hend.ctr,
        hend.events⟩⟩
      have hcount : max x.retriesLeft 1 = max (x.retriesLeft - 1) 1 + 1 := by omega
      rw [hend.sent, hcount, List.replicate_succ]
      exact List.append_assoc s.sent [s.txbuf] _

/-- Settles O34: by induction on the attempts. -/
theorem silentExchangeTimesOut : Obligations.SilentExchangeTimesOut := by
  intro s x c times hlegal hx hc hl hw ho hlen hpaced
  obtain ⟨t, hrun, hend⟩ := run_silence c s.events times
    { s with events := Spec.silence times ++ s.events } x hlegal hx hc hl hw ho hlen hpaced rfl
  exact ⟨t, hrun, hend.sent, hend.results, hend.lock, hend.linkState, hend.cur, hend.seq, hend.ctr,
    hend.events⟩

end Sys2Proof.Proofs.Silence
end

section
/-! SUPPORT. What OPEN, CLOSE, DOWNLOAD and RESET answer, and NEGOTIATE's refusals (spec/60_exceptions.md
section 5, 70_reset_and_hazards.md sections 1 and 3). -/

namespace Sys2Proof.Machine

open Sys2Proof

theorem exec_openPort (port : List Byte) (s : State) :
    exec (.openPort port) s =
      if (s.draw 2).1 = 1 then .next ((s.draw 2).2.openTransport.emit (.opened true))
      else .next ((s.draw 2).2.closeTransport.emit (.opened false)) := rfl

theorem exec_closePort (s : State) : exec .closePort s = .next s.closeTransport := rfl

theorem exec_download (v : Bool) (s : State) : exec (.download v) s = .next (s.setDownload v) := rfl

/-- R279: the pending write of a transport that closes is doomed, and a write that is none stays none. -/
theorem doom_eq (w : Write) : w.doom = if w = .none then .none else .pending true := by
  cases w <;> rfl

theorem closeTransport_eq (s : State) :
    s.closeTransport = { s with
      transportOpen := false, write := if s.write = .none then .none else .pending true } := by
  rw [State.closeTransport, doom_eq]

/-- R343, D37: the draw 1 opens the transport, and any other draw leaves it closed. -/
theorem exec_openPort_of_draw (port : List Byte) {s : State} {d : Nat} {draws : List Nat}
    {drawCount : Nat} (hdraw : s.draw 2 = (d, { s with draws := draws, drawCount := drawCount })) :
    exec (.openPort port) s = .next { s with
      draws := draws, drawCount := drawCount, transportOpen := decide (d = 1)
      write := if decide (d = 1) = true ∨ s.write = .none then s.write else .pending true
      results := s.results ++ [.opened (decide (d = 1))] } := by
  rw [exec_openPort, hdraw]
  by_cases hd : d = 1
  · simp only [hd, if_true, decide_true, true_or]
    rfl
  · simp only [hd, if_false, decide_false, Bool.false_eq_true, false_or, closeTransport_eq]
    by_cases hw : s.write = .none <;> simp only [hw, if_true, if_false] <;> rfl

/-- NEGOTIATE's checks before any draw (41_key_negotiation.md R177; 92_eei_decisions.md D38). -/
theorem exec_negotiate_of_invalid_addr {a : Byte} (retry timeout : Nat) (s : State)
    (h : 127 < a.toNat) :
    exec (.negotiate a retry timeout) s = .next (s.refuse .invalidAddress) := if_pos h

theorem exec_negotiate_of_downloadActive {a : Byte} (retry timeout : Nat) {s : State}
    (ha : a.toNat ≤ 127) (h : s.downloadActive = true) :
    exec (.negotiate a retry timeout) s = .next (s.refuse .downloadActive) :=
  (if_neg (Nat.not_lt.mpr ha)).trans (if_pos h)

theorem exec_reset {s : State} (hlegal : legalConfig s.cfg = true) :
    exec .reset s =
      if s.quiet = true then .next s.resetElements else .next (s.refuse .resetInExchange) := by
  simp only [exec, execReset, hlegal]
  cases s.quiet <;> rfl

/-- What stops a RESET, in the terms claims use (92_eei_decisions.md D52). -/
theorem quiet_eq_false_iff (s : State) : ¬s.quiet = true ↔
    s.lock = .held ∨ s.linkState ≠ .idle ∨ ∃ n stage, Call.negotiation n stage ∈ s.calls := by
  have hlock : s.lock = .held ↔ ¬s.lock = .free := by cases s.lock <;> simp
  rw [quiet_iff, hlock]
  simp only [not_and_or, not_forall, not_not, ne_eq]

end Sys2Proof.Machine
end

section
/-! The statements about RESET and the events (spec/70_reset_and_hazards.md section 1, 60_exceptions.md
sections 4 and 5). -/

namespace Sys2Proof.Proofs.Events

open Sys2Proof Sys2Proof.Machine

/-- Settles O40: every register of a fixed state. -/
theorem resetHasInvariants : Obligations.ResetHasInvariants := by
  have hlink : LinkInv State.reset := {
    held_iff := ⟨nofun, nofun⟩
    idle_iff := ⟨fun _ => rfl, fun _ => rfl⟩
    passing := ⟨nofun, nofun⟩
    writing := fun h => absurd rfl h
    awaiting := nofun
    absent := fun _ => rfl }
  have htable : TableInv State.reset := fun i _ =>
    ⟨Vector.getElem_replicate i.isLt, Vector.getElem_replicate i.isLt⟩
  exact ⟨hlink, ⟨nofun, nofun, nofun, Nat.zero_le _⟩, htable, nofun, deframerInv_reset _, rfl,
    ⟨rfl, rfl, rfl, rfl⟩, step_of_nil rfl rfl⟩

/-- Settles O45: RESET is admitted exactly in a quiet state, and its next state is the reset state with the
ports and the time as they were. -/
theorem resetSetsEveryElement : Obligations.ResetSetsEveryElement := by
  refine ⟨fun s hlegal => ⟨fun hlock hidle hcalls => ?_, fun hbusy => ?_⟩, rfl⟩
  · refine ⟨s.resetElements, ?_, rfl, rfl, rfl, rfl, rfl, rfl, rfl, rfl, fun i => ⟨?_, ?_⟩, rfl, rfl,
      rfl, rfl, rfl, rfl, rfl, rfl, rfl, rfl⟩
    · rw [exec_reset hlegal, if_pos ((quiet_iff s).mpr ⟨hlock, hidle, hcalls⟩)]
    · exact Vector.getElem_replicate i.isLt
    · exact Vector.getElem_replicate i.isLt
  · rw [exec_reset hlegal, if_neg ((quiet_eq_false_iff s).mpr hbusy)]
    exact refused_refuse s .resetInExchange

/-- Settles O46: by whether the operand lies before `now`. -/
theorem timeAdvances : Obligations.TimeAdvances :=
  fun _ _ => ⟨exec_time_of_le, exec_time_of_lt⟩

/-- Settles O47: OPEN's outcome is its draw's. -/
theorem openDraws : Obligations.OpenDraws := by
  intro port s
  refine ⟨?_, fun ok rest hdraws => ?_⟩
  · obtain ⟨draws, drawCount, hframe⟩ := draw_frame s 2
    exact ⟨_, draws, drawCount, exec_openPort_of_draw port (Prod.ext rfl hframe)⟩
  · rw [exec_openPort_of_draw port (draw_cons s 2 _ rest hdraws)]
    cases ok <;> rfl

/-- The pending write of a closed transport stays doomed through an OPEN. -/
theorem write_of_exec_openPort {port : List Byte} {s u : State} (h : exec (.openPort port) s = .next u)
    (hw : s.write = .pending true) : u.cfg = s.cfg ∧ u.cur = s.cur ∧ u.write = .pending true := by
  obtain ⟨draws, drawCount, hframe⟩ := draw_frame s 2
  rw [exec_openPort_of_draw port (Prod.ext rfl hframe)] at h
  cases h
  exact ⟨rfl, rfl, by simp [hw]⟩

/-- Settles O48: CLOSE dooms the pending write, and a doomed write can only fail. -/
theorem closeDooms : Obligations.CloseDooms := by
  intro s
  have hclose := closeTransport_eq s
  refine ⟨by rw [exec_closePort, hclose], fun t u x good hlegal hx hw ht hu => ?_⟩
  rw [exec_closePort, hclose, if_neg hw] at ht
  cases ht
  have hdoomed : u.cfg = s.cfg ∧ u.cur = s.cur ∧ u.write = .pending true := by
    rcases hu with rfl | ⟨port, hopen⟩
    · exact ⟨rfl, rfl, rfl⟩
    · exact write_of_exec_openPort (s := { s with transportOpen := false, write := .pending true }) hopen rfl
  obtain ⟨hcfg, hcur, hwrite⟩ := hdoomed
  rw [step_written (by rw [hcfg]; exact hlegal),
    writeAnswered_of_fail (hcur.trans hx) hwrite (.inr (.inl rfl))]

/-- Settles O49: the flag is the first check of SEND_COMMAND and the second of NEGOTIATE. -/
theorem downloadSets : Obligations.DownloadSets := by
  intro v s
  refine ⟨exec_download v s, fun c hv hlock => ?_, fun a retry timeout hv ha => ?_⟩
  · exact refused_exec_sendCommand hlock (admission_of_downloadActive hv)
  · rw [exec_negotiate_of_downloadActive (s := { s with downloadActive := v }) retry timeout ha hv]
    exact refused_refuse _ _

/-- Settles O50: the address is the first check. -/
theorem negotiateRefusesAddress : Obligations.NegotiateRefusesAddress := by
  intro a retry timeout s ha
  rw [exec_negotiate_of_invalid_addr retry timeout s ha]
  exact refused_refuse s .invalidAddress

end Sys2Proof.Proofs.Events
end

section
/-! SUPPORT. What an admitted SEND_COMMAND compiles, plain and encrypted (spec/44_link_fsm.md R263-R266), and
what the rows of spec/45_wire_commands.md send. -/

namespace Sys2Proof.Machine

open Sys2Proof

/-! ### Buffers of whole blocks -/

/-- R192: the cipher works on each block by itself. -/
theorem ecbBlocks_block (f : Block → Block) (n : Nat) (buf : List Byte) (j : Nat) (hj : j < n) :
    ((ecbBlocks f n buf).drop (16 * j)).take 16 =
      blockBytes (f (blockOfBytes ((buf.drop (16 * j)).take 16))) := by
  induction n generalizing buf j with
  | zero => exact absurd hj (Nat.not_lt_zero j)
  | succ n ih =>
    cases j with
    | zero => simp [ecbBlocks]
    | succ j =>
      have hnext : 16 * (j + 1) = (blockBytes (f (blockOfBytes (buf.take 16)))).length + 16 * j := by
        rw [blockBytes_length]; omega
      rw [ecbBlocks, hnext, List.drop_length_add_append, ih (buf.drop 16) j (by omega), List.drop_drop,
        blockBytes_length]

theorem blockwise_ecb (key : Block) (dir : Direction) {buf : List Byte} (h : 16 ∣ buf.length) :
    Spec.Blockwise (fun x => aesBlock key x dir) buf (ecb key buf dir) := by
  refine ⟨by rw [ecb_length, Nat.mul_div_cancel' h], fun j hj => ?_⟩
  exact ecbBlocks_block _ _ buf j (by omega)

/-! ### Envelopes -/

theorem padCount_eq_padLength (n : Nat) : padCount n = Spec.padLength n := rfl

/-- R193: the envelope is the rules' own. -/
theorem envelopeWith_eq_envelope (c : Config) (xs : List Byte) (ctr : Word32) (pad : List Byte) :
    envelopeWith c xs ctr pad = Spec.envelope c xs ctr pad := by
  simp only [envelopeWith, crcBytes_configCrc, Spec.envelope, List.cons_append, List.nil_append,
    List.append_assoc]

theorem dvd_envelope_length_of_pad (c : Config) (xs : List Byte) (ctr : Word32) {pad : List Byte}
    (h : pad.length = padCount xs.length) : 16 ∣ (Spec.envelope c xs ctr pad).length := by
  rw [← envelopeWith_eq_envelope, envelopeWith_length, h]
  exact dvd_envelope_length xs.length

/-- R196: ENCRYPT's packet is the marker and the envelope's blocks enciphered one by one. -/
theorem encryptWith_blockwise (c : Config) (xs : List Byte) (ctr : Word32) (k : Word64)
    {pad : List Byte} (h : pad.length = padCount xs.length) :
    ∃ cipher, encryptWith c xs ctr k pad = c.encMarker :: cipher ∧
      Spec.Blockwise (fun x => aesBlock (Spec.cipherKey c k) x .enc) (Spec.envelope c xs ctr pad)
        cipher := by
  refine ⟨_, rfl, ?_⟩
  rw [envelopeWith_eq_envelope]
  exact blockwise_ecb _ .enc (dvd_envelope_length_of_pad c xs ctr h)

/-! ### The compiled exchange -/

theorem isSync_eq_decide (cfg : Config) (cmd : List Byte) :
    isSync cfg cmd = decide (cmd.head? = some cfg.syncCode) := by
  rw [Bool.eq_iff_iff, isSync, beq_iff_eq, decide_eq_true_iff]

/-- R265: the sequence bits a command is compiled with. -/
theorem syncReset_latch (s : State) (o : Owner) (c : Command) :
    s.syncReset (latch s.cfg o c) = { s with seq := Spec.seqForCommand s c } := by
  simp only [State.syncReset, Spec.seqForCommand, latch, isSync_eq_decide, decide_eq_true_eq]
  split <;> rfl

/-- R264-R266: an admitted command whose payload is known is what `Spec.compiled` says, but for the values
drawn. -/
theorem beginExchange_of_admitted {s : State} {o : Owner} {c : Command} {payload : List Byte}
    {draws : List Nat} {drawCount : Nat} (h : s.admission c = none)
    (hpayload : State.compilePayload { s with lock := .held, seq := Spec.seqForCommand s c }
        (latch s.cfg o c) =
      (payload, { s with
        lock := .held, seq := Spec.seqForCommand s c, draws := draws, drawCount := drawCount })) :
    s.beginExchange o c =
      { Spec.compiled s o c payload with draws := draws, drawCount := drawCount } := by
  have hsync : s.acquire.syncReset (latch s.cfg o c) =
      { s with lock := .held, seq := Spec.seqForCommand s c } := syncReset_latch s.acquire o c
  simp only [State.beginExchange, h, State.compile, hsync, hpayload, frameEncode_eq_stuffed_body]
  simp only [Spec.compiled, latch, isSync_eq_decide, State.seqAt]

theorem beginExchange_of_plain {s : State} (o : Owner) {c : Command} (hdown : s.downloadActive = false)
    (haddr : c.addr.toNat ≤ 127) (henc : c.enc = false) (hlen : c.cmd.length ≤ 250) :
    s.beginExchange o c = Spec.compiled s o c c.cmd := by
  have hadmit : s.admission c = none := by
    apply admission_eq_none hdown haddr <;> simp [henc, hlen]
  refine beginExchange_of_admitted (draws := s.draws) (drawCount := s.drawCount) hadmit ?_
  simp [State.compilePayload, latch, henc]

theorem compilesEncrypted_of_admitted {s : State} {c : Command} {k : Word64} (hlock : s.lock = .free)
    (hdown : s.downloadActive = false) (haddr : c.addr.toNat ≤ 127) (henc : c.enc = true)
    (hkey : c.key = some k) (hlen : c.cmd.length ≤ 233)
    (hctr : s.ctr[slot (c.addr.setWidth 7)] ≠ 0xFFFFFFFF) :
    Spec.CompilesEncrypted (exec (.sendCommand c) s) s c k := by
  have hadmit : s.admission c = none :=
    admission_eq_none hdown haddr (fun _ => by simp [hkey]) (by omega) (fun _ => hlen) fun _ => hctr
  obtain ⟨hpad, draws, drawCount, hdrawn⟩ := drawBytes_frame (padCount c.cmd.length)
    { s with lock := .held, seq := Spec.seqForCommand s c }
  obtain ⟨cipher, hpacket, hblocks⟩ := encryptWith_blockwise s.cfg c.cmd
    s.ctr[slot (c.addr.setWidth 7)] k hpad
  refine ⟨_, cipher, draws, drawCount, hpad, hblocks, ?_⟩
  rw [exec_sendCommand_of_free c hlock]
  refine congrArg _ (beginExchange_of_admitted hadmit ?_)
  simp only [State.compilePayload, latch, henc, hkey, State.encryptPayload]
  exact Prod.ext hpacket hdrawn

/-! ### The wire command rows (45_wire_commands.md R310-R314) -/

section
variable (v : Word64) (a : Byte) (retry timeout : Nat) (s : State)

theorem exec_sync : exec (.sync a retry timeout) s =
    exec (.sendCommand ⟨a, false, none, retry, timeout, [s.cfg.syncCode]⟩) s := rfl

theorem exec_setGenerator : exec (.setGenerator v a retry timeout) s =
    exec (.sendCommand
      ⟨a, false, none, retry, timeout, s.cfg.setGeneratorCode :: leBytes 8 v.toNat⟩) s := rfl

theorem exec_setModulus : exec (.setModulus v a retry timeout) s =
    exec (.sendCommand
      ⟨a, false, none, retry, timeout, s.cfg.setModulusCode :: leBytes 8 v.toNat⟩) s := rfl

theorem exec_requestKeyExchange : exec (.requestKeyExchange v a retry timeout) s =
    exec (.sendCommand
      ⟨a, false, none, retry, timeout, s.cfg.keyExchangeCode :: leBytes 8 v.toNat⟩) s := rfl

theorem exec_otherCommand (code : Byte) (params : List Byte) (enc : Bool) (key : Option Word64) :
    exec (.otherCommand code params a enc key retry timeout) s =
      exec (.sendCommand ⟨a, enc, key, retry, timeout, code :: params⟩) s := rfl

end

theorem exec_sendCommand_of_held {s : State} (c : Command) (hlock : s.lock = .held) :
    exec (.sendCommand c) s = .next { s with calls := s.calls ++ [.send c] } := by
  rw [exec_sendCommand, State.callSend, hlock]

theorem exec_sendCommand_of_plain {s : State} {c : Command} (hlock : s.lock = .free)
    (hdown : s.downloadActive = false) (haddr : c.addr.toNat ≤ 127) (henc : c.enc = false)
    (hlen : c.cmd.length ≤ 250) :
    exec (.sendCommand c) s = .next (Spec.compiled s (.host c) c c.cmd) := by
  rw [exec_sendCommand_of_free c hlock, beginExchange_of_plain _ hdown haddr henc hlen]

/-! ### A waiting call's turn (20_memory.md R88) -/

section
variable {s : State} {i : Nat} {c : Command}

theorem callMove_send_of_free (hc : s.calls[i]? = some (.send c)) (hlock : s.lock = .free) :
    s.callMove i = { s with calls := s.calls.eraseIdx i }.beginExchange (.host c) c := by
  simp only [State.callMove, hc, hlock]
  rfl

theorem callMove_send_of_held (hc : s.calls[i]? = some (.send c)) (hlock : s.lock = .held) :
    s.callMove i = s := by
  simp only [State.callMove, hc, hlock]

end

theorem step_call {s : State} (hlegal : legalConfig s.cfg = true) (i : Nat) :
    step (Spec.moved (.call i) s) = .next (s.callMove i) := step_moved hlegal (.call i)

end Sys2Proof.Machine
end

section
/-! The statements about SEND_COMMAND and the wire command rows (spec/44_link_fsm.md sections 1 and 2,
45_wire_commands.md section 1). -/

namespace Sys2Proof.Proofs.Commands

open Sys2Proof Sys2Proof.Machine

/-- Settles O20: the command is admitted, and its payload is the command itself. -/
theorem sendPlainCompiles : Obligations.SendPlainCompiles :=
  fun _ _ hlock hdown haddr henc hlen => exec_sendCommand_of_plain hlock hdown haddr henc hlen

/-- Settles O21: the command is admitted, and its payload is ENCRYPT's packet for the padding drawn. -/
theorem sendEncryptedCompiles : Obligations.SendEncryptedCompiles :=
  fun _ _ _ hlock hdown haddr henc hkey hlen hctr =>
    compilesEncrypted_of_admitted hlock hdown haddr henc hkey hlen hctr

/-- Settles O22: a held lock lets no call through, and a granted call runs as it would have at once. -/
theorem sendWaitsForLock : Obligations.SendWaitsForLock := by
  refine ⟨fun c s => exec_sendCommand_of_held c, fun a retry timeout v s hlock => ⟨?_, ?_, ?_, ?_⟩,
    fun code a params enc key retry timeout s hlock => ?_, fun c i s hlegal hc => ⟨fun hlock => ?_,
    fun hlock => ?_⟩⟩
  · rw [exec_sync, exec_sendCommand_of_held _ hlock]
  · rw [exec_setGenerator, exec_sendCommand_of_held _ hlock]
  · rw [exec_setModulus, exec_sendCommand_of_held _ hlock]
  · rw [exec_requestKeyExchange, exec_sendCommand_of_held _ hlock]
  · rw [exec_otherCommand, exec_sendCommand_of_held _ hlock]
  · rw [step_call hlegal, callMove_send_of_free hc hlock]
    exact (exec_sendCommand_of_free (s := { s with calls := s.calls.eraseIdx i }) c hlock).symm
  · rw [step_call hlegal, callMove_send_of_held hc hlock]

/-- Settles O23: each row is the SEND_COMMAND of its payload, which is short enough to be admitted. -/
theorem wireCommandsCompile : Obligations.WireCommandsCompile := by
  intro a retry timeout s
  refine ⟨⟨exec_sync a retry timeout s, fun v => ⟨exec_setGenerator v a retry timeout s,
    exec_setModulus v a retry timeout s, exec_requestKeyExchange v a retry timeout s⟩,
    exec_otherCommand a retry timeout s⟩, fun hlock hdown haddr => ⟨?_, fun v => ⟨?_, ?_, ?_⟩,
    fun code params key hlen => ?_, fun code params k hlen hctr => ?_⟩⟩
  · rw [exec_sync]
    exact exec_sendCommand_of_plain hlock hdown haddr rfl (by simp)
  · rw [exec_setGenerator]
    exact exec_sendCommand_of_plain hlock hdown haddr rfl (by simp)
  · rw [exec_setModulus]
    exact exec_sendCommand_of_plain hlock hdown haddr rfl (by simp)
  · rw [exec_requestKeyExchange]
    exact exec_sendCommand_of_plain hlock hdown haddr rfl (by simp)
  · rw [exec_otherCommand]
    exact exec_sendCommand_of_plain hlock hdown haddr rfl (Nat.succ_le_succ hlen)
  · rw [exec_otherCommand]
    exact compilesEncrypted_of_admitted hlock hdown haddr rfl rfl (Nat.succ_le_succ hlen) hctr

end Sys2Proof.Proofs.Commands
end

section
/-! SUPPORT. The polynomials that shifts of a single flipped bit run through never vanish (spec/40_crc.md
R147): the CRC's register is linear in the difference of two byte lists. -/

namespace Sys2Proof.Machine

open Sys2Proof

/-! ### Shifts are linear -/

theorem crcShift_linear (poly a b : Word16) :
    Spec.crcShift poly (a ^^^ b) = Spec.crcShift poly a ^^^ Spec.crcShift poly b := by
  have hcancel : a <<< 1 ^^^ poly ^^^ (b <<< 1 ^^^ poly) = a <<< 1 ^^^ b <<< 1 := by
    have hpoly : a <<< 1 ^^^ poly ^^^ (b <<< 1 ^^^ poly) = a <<< 1 ^^^ b <<< 1 ^^^ (poly ^^^ poly) := by
      ac_rfl
    rw [hpoly, BitVec.xor_self, BitVec.xor_zero]
  simp only [Spec.crcShift, BitVec.getLsbD_xor, BitVec.shiftLeft_xor_distrib]
  cases a.getLsbD 15 <;> cases b.getLsbD 15 <;>
    simp only [Bool.xor_self, Bool.xor_false, Bool.xor_true, Bool.not_false, Bool.false_eq_true,
      if_true, if_false, hcancel] <;> ac_rfl

theorem repeat_crcShift_linear (poly a b : Word16) (n : Nat) :
    Nat.repeat (Spec.crcShift poly) n (a ^^^ b) =
      Nat.repeat (Spec.crcShift poly) n a ^^^ Nat.repeat (Spec.crcShift poly) n b := by
  induction n with
  | zero => rfl
  | succ n ih => rw [Nat.repeat, ih, crcShift_linear, Nat.repeat, Nat.repeat]

theorem repeat_add {α : Type} (f : α → α) (m n : Nat) (x : α) :
    Nat.repeat f (m + n) x = Nat.repeat f m (Nat.repeat f n x) := by
  induction m with
  | zero => rw [Nat.zero_add]; rfl
  | succ m ih => rw [Nat.succ_add, Nat.repeat, ih, Nat.repeat]

/-- A difference in the register is shifted along with the bytes that follow. -/
theorem crcFold_xor (xs : List Byte) (seed e poly : Word16) :
    Spec.crcFold xs (seed ^^^ e) poly =
      Spec.crcFold xs seed poly ^^^ Nat.repeat (Spec.crcShift poly) (8 * xs.length) e := by
  induction xs generalizing seed e with
  | nil => rfl
  | cons b bs ih =>
    have hbyte : Spec.crcFoldByte poly (seed ^^^ e) b =
        Spec.crcFoldByte poly seed b ^^^ Nat.repeat (Spec.crcShift poly) 8 e := by
      rw [Spec.crcFoldByte, Spec.crcFoldByte, ← repeat_crcShift_linear]
      congr 1
      ac_rfl
    have hcons (r : Word16) :
        Spec.crcFold (b :: bs) r poly = Spec.crcFold bs (Spec.crcFoldByte poly r b) poly := rfl
    rw [hcons, hcons, hbyte, ih, ← repeat_add, List.length_cons, Nat.mul_succ]

/-! ### What shifts of one bit run through -/

/-- Bit `k` of `r` is the lowest that is set. -/
def LowestBit (r : Word16) (k : Nat) : Prop := r.getLsbD k = true ∧ ∀ j, j < k → r.getLsbD j = false

theorem exists_getLsbD_of_ne_zero {r : Word16} (h : r ≠ 0) : ∃ k, r.getLsbD k = true := by
  by_contra hnone
  simp only [not_exists, Bool.not_eq_true] at hnone
  exact h (BitVec.eq_of_getLsbD_eq fun k _ => by rw [hnone k, BitVec.ofNat_eq_ofNat, BitVec.getLsbD_zero])

theorem ne_zero_of_getLsbD {r : Word16} {k : Nat} (h : r.getLsbD k = true) : r ≠ 0 := by
  rintro rfl
  simp at h

theorem exists_lowestBit {r : Word16} (h : r ≠ 0) : ∃ k, LowestBit r k := by
  classical
  have hex := exists_getLsbD_of_ne_zero h
  exact ⟨Nat.find hex, Nat.find_spec hex, fun j hj => Bool.eq_false_iff.mpr (Nat.find_min hex hj)⟩

/-- The registers that a flipped bit runs through: a single bit on its way to the top, and from then on
one that is not zero and reaches down no further than the polynomial. -/
def Lasting (poly r : Word16) : Prop :=
  (∃ m, m < 16 ∧ r = 1#16 <<< m) ∨
    (r ≠ 0 ∧ ∃ k, LowestBit poly k ∧ ∀ j, j < k → r.getLsbD j = false)

theorem Lasting.ne_zero {poly r : Word16} (h : Lasting poly r) : r ≠ 0 := by
  rcases h with ⟨m, hm, rfl⟩ | ⟨hne, _⟩
  · exact ne_zero_of_getLsbD (k := m) (by simp [hm])
  · exact hne

theorem crcShift_single {m : Nat} (poly : Word16) (hm : m < 15) :
    Spec.crcShift poly (1#16 <<< m) = 1#16 <<< (m + 1) := by
  have htop : (1#16 <<< m).getLsbD 15 = false := by
    have hne : ¬15 - m = 0 := by omega
    simp [hne]
  rw [Spec.crcShift, htop, if_neg Bool.false_ne_true, ← BitVec.shiftLeft_add]

theorem crcShift_top (poly : Word16) : Spec.crcShift poly (1#16 <<< 15) = poly := BitVec.zero_xor

/-- The polynomial's lowest bit is where a shifted register cannot cancel it. -/
theorem Lasting.crcShift {poly r : Word16} (hpoly : poly ≠ 0) (h : Lasting poly r) :
    Lasting poly (Spec.crcShift poly r) := by
  rcases h with ⟨m, hm, rfl⟩ | ⟨hne, k, hk, hlow⟩
  · by_cases htop : m = 15
    · obtain ⟨k, hk⟩ := exists_lowestBit hpoly
      rw [htop, crcShift_top]
      exact .inr ⟨hpoly, k, hk, hk.2⟩
    · have hbelow : m < 15 := by omega
      rw [crcShift_single poly hbelow]
      exact .inl ⟨m + 1, by omega, rfl⟩
  · obtain ⟨hset, hclear⟩ := hk
    have hshift (j : Nat) (hj : j ≤ k) : (r <<< 1).getLsbD j = false := by
      rw [BitVec.getLsbD_shiftLeft]
      by_cases h0 : j < 1
      · simp [h0]
      · simp [hlow (j - 1) (by omega)]
    rw [Spec.crcShift]
    split
    · refine .inr ⟨ne_zero_of_getLsbD (k := k) ?_, k, ⟨hset, hclear⟩, fun j hj => ?_⟩
      · rw [BitVec.getLsbD_xor, hshift k (Nat.le_refl k), hset]
        rfl
      · rw [BitVec.getLsbD_xor, hshift j (Nat.le_of_lt hj), hclear j hj]
        rfl
    · rename_i hmsb
      obtain ⟨i, hi⟩ := exists_getLsbD_of_ne_zero hne
      have hlt : i < 15 := by
        have h16 : i < 16 := BitVec.lt_of_getLsbD hi
        by_contra hge
        obtain rfl : i = 15 := by omega
        exact hmsb hi
      refine .inr ⟨ne_zero_of_getLsbD (k := i + 1) ?_, k, ⟨hset, hclear⟩,
        fun j hj => hshift j (Nat.le_of_lt hj)⟩
      rw [BitVec.getLsbD_shiftLeft, Nat.add_sub_cancel, hi]
      simp
      omega

theorem Lasting.repeat {poly e : Word16} (hpoly : poly ≠ 0) (h : Lasting poly e) (n : Nat) :
    Lasting poly (Nat.repeat (Spec.crcShift poly) n e) := by
  induction n with
  | zero => exact h
  | succ n ih => exact ih.crcShift hpoly

/-! ### One flipped bit -/

/-- A flipped data bit is folded in as one bit of the register's high byte. -/
theorem fold_flipped_bit (j : Nat) (hj : j < 8) :
    ((1 : Byte) <<< j).setWidth 16 <<< 8 = 1#16 <<< (j + 8) := by
  have hall : ∀ j : Fin 8, ((1 : Byte) <<< j.val).setWidth 16 <<< 8 = 1#16 <<< (j.val + 8) := by decide
  exact hall ⟨j, hj⟩

/-- R147: the CRCs of two lists that differ in one bit differ by a register that does not vanish. -/
theorem crcFold_flipped {poly : Word16} (hpoly : poly ≠ 0) {j : Nat} (hj : j < 8) (xs : List Byte)
    (i : Nat) (hi : i < xs.length) (seed : Word16) :
    ∃ e, e ≠ 0 ∧ Spec.crcFold (xs.modify i (fun b => b ^^^ ((1 : Byte) <<< j))) seed poly =
      Spec.crcFold xs seed poly ^^^ e := by
  induction xs generalizing i seed with
  | nil => exact absurd hi (Nat.not_lt_zero i)
  | cons b bs ih =>
    cases i with
    | zero =>
      have hbyte : Spec.crcFoldByte poly seed (b ^^^ ((1 : Byte) <<< j)) =
          Spec.crcFoldByte poly seed b ^^^
            Nat.repeat (Spec.crcShift poly) 8 (1#16 <<< (j + 8)) := by
        rw [Spec.crcFoldByte, Spec.crcFoldByte, ← repeat_crcShift_linear, ← fold_flipped_bit j hj,
          BitVec.setWidth_xor, BitVec.shiftLeft_xor_distrib, BitVec.xor_assoc]
      have hlasting : Lasting poly (1#16 <<< (j + 8)) := .inl ⟨j + 8, by omega, rfl⟩
      refine ⟨_, ((hlasting.repeat hpoly 8).repeat hpoly (8 * bs.length)).ne_zero, ?_⟩
      have hdiff := crcFold_xor bs (Spec.crcFoldByte poly seed b)
        (Nat.repeat (Spec.crcShift poly) 8 (1#16 <<< (j + 8))) poly
      rw [← hbyte] at hdiff
      exact hdiff
    | succ i => exact ih i (Nat.lt_of_succ_lt_succ hi) (Spec.crcFoldByte poly seed b)

end Sys2Proof.Machine
end

section
/-! The statement about single-bit errors (spec/40_crc.md R147). -/

namespace Sys2Proof.Proofs.CrcErrors

open Sys2Proof Sys2Proof.Machine

/-- Settles O3: the two CRCs differ by what the flipped bit has become in the register, and CRC_CHECK compares
with the CRC of the list it is given. -/
theorem singleBitErrorsDetected : Obligations.SingleBitErrorsDetected := by
  intro xs i seed poly s hpoly hi
  have hj : i % 8 < 8 := Nat.mod_lt i (by decide)
  obtain ⟨e, he, hflip⟩ := crcFold_flipped hpoly hj xs (i / 8) (by omega) seed
  rw [← crc16_eq_crcFold, ← crc16_eq_crcFold] at hflip
  have hne : crc16 xs seed poly ≠ crc16 (Spec.flipBit xs i) seed poly := by
    intro heq
    have hsame : crc16 xs seed poly = crc16 xs seed poly ^^^ e := heq.trans hflip
    exact he ((BitVec.xor_right_inj _).mp (hsame.symm.trans BitVec.xor_zero.symm))
  refine ⟨crc16 xs seed poly, crc16 (Spec.flipBit xs i) seed poly, hne, exec_crc16 .., exec_crc16 ..,
    ?_⟩
  have hbytes : (crc16 xs seed poly).extractLsb' 8 8 ++ (crc16 xs seed poly).extractLsb' 0 8 =
      crc16 xs seed poly := (append_eq_iff_bytes _ _ _).mpr ⟨rfl, rfl⟩
  rw [exec_crcCheck, crcCheck_eq_decide, hbytes, decide_eq_false hne, State.emit]

end Sys2Proof.Proofs.CrcErrors
end

section
/-! SUPPORT. The cipher undoes its inverse too, what ENVELOPE and ENCRYPT draw, and DECRYPT's checks in the
terms of the rules (spec/42_symmetric_codec.md sections 1 to 3). -/

namespace Sys2Proof.Machine

open Sys2Proof

/-! ### The cipher -/

theorem finite_block : Finite Block := by
  have hcol : Finite Col := Finite.of_injective (fun c : Col => (c.b0, c.b1, c.b2, c.b3)) (by
    rintro ⟨⟩ ⟨⟩ h
    simpa using h)
  exact Finite.of_injective (fun x : Block => (x.c0, x.c1, x.c2, x.c3)) (by
    rintro ⟨⟩ ⟨⟩ h
    simpa using h)

/-- R190: on the finitely many blocks a left inverse is a right inverse. -/
theorem aesEnc_aesDec (k x : Block) : aesEnc k (aesDec k x) = x := by
  have hfinite := finite_block
  have hleft : Function.LeftInverse (aesDec k) (aesEnc k) := aesDec_aesEnc k
  have hsurj : Function.Surjective (aesEnc k) := Finite.surjective_of_injective hleft.injective
  exact hleft.rightInverse_of_surjective hsurj x

theorem exec_aesBlock (k x : Block) (dir : Direction) (s : State) :
    exec (.aesBlock k x dir) s = .next (s.emit (.aesBlock (aesBlock k x dir))) := rfl

/-! ### ENVELOPE and ENCRYPT -/

section
variable (xs : List Byte) (ctr : Word32) (s : State)

theorem exec_envelope_of_too_long (h : 233 < xs.length) :
    exec (.envelope xs ctr) s = .next (s.refuse .payloadTooLong) := if_pos h

theorem exec_envelope (h : xs.length ≤ 233) :
    exec (.envelope xs ctr) s =
      .next ((State.drawBytes (padCount xs.length) s).2.emit
        (.envelope (envelopeWith s.cfg xs ctr (State.drawBytes (padCount xs.length) s).1))) :=
  if_neg (Nat.not_lt.mpr h)

theorem exec_encrypt_of_too_long (key : Word64) (h : 233 < xs.length) :
    exec (.encrypt xs ctr key) s = .next (s.refuse .payloadTooLong) := if_pos h

end

/-! ### DECRYPT (R200) -/

theorem decryptPayload_of_length {c : Config} {p : List Byte} (key : Word64) (ctr : Word32)
    (h : (p.drop 1).length = 0 ∨ (p.drop 1).length % 16 ≠ 0) :
    decryptPayload c p key ctr = .error .length := if_pos h

theorem decryptPayload_of_blocks {c : Config} {p : List Byte} (key : Word64) (ctr : Word32)
    (hne : (p.drop 1).length ≠ 0) (hdvd : (p.drop 1).length % 16 = 0) :
    decryptPayload c p key ctr = openEnvelope c (ecb (keyBlock c key) (p.drop 1) .dec) ctr :=
  if_neg (by simp only [not_or, not_not]; exact ⟨hne, hdvd⟩)

/-- R202, and 43_frame_codec.md R233: the check of a buffer's last two bytes compares them with a CRC's two
bytes. -/
theorem crcCheck_last_two (c : Config) (xs : List Byte) {d : List Byte} (h : 2 ≤ d.length) :
    crcCheck xs (byteAt d (d.length - 2)) (byteAt d (d.length - 1)) c.crcSeed c.crcPoly = true ↔
      d.drop (d.length - 2) = Spec.crcTail c xs := by
  have hlast : d.drop (d.length - 2) = [byteAt d (d.length - 2), byteAt d (d.length - 1)] := by
    have h1 : d.length - 2 < d.length := by omega
    have h2 : d.length - 2 + 1 < d.length := by omega
    have hsucc : d.length - 1 = d.length - 2 + 1 := by omega
    rw [List.drop_eq_getElem_cons h1, List.drop_eq_getElem_cons h2, List.drop_of_length_le (by omega)]
    simp [byteAt, hsucc, h1, h2]
  rw [hlast, ← crcBytes_configCrc, crcCheck, Bool.and_eq_true, beq_iff_eq, beq_iff_eq, crcBytes,
    List.cons_eq_cons, List.cons_eq_cons]
  simp [configCrc]

section
variable {c : Config} {d : List Byte} {ctr : Word32} (hlen : 2 ≤ d.length)
include hlen

theorem openEnvelope_of_bad_crc
    (h : d.drop (d.length - 2) ≠ Spec.crcTail c (d.take (d.length - 2))) :
    openEnvelope c d ctr = .error .crc := by
  rw [ne_eq, ← crcCheck_last_two c _ hlen, Bool.not_eq_true] at h
  rw [openEnvelope, h]
  rfl

/-- Behind a good CRC come the counter and the inner length, in this order. -/
theorem openEnvelope_of_good_crc
    (h : d.drop (d.length - 2) = Spec.crcTail c (d.take (d.length - 2))) {n : Byte}
    (hn : d[0]? = some n) :
    openEnvelope c d ctr =
      if fromLE ((d.drop 1).take 4) ≠ ctr.toNat then .error .counter
      else if d.length - 2 < 5 + n.toNat then .error .innerLength
      else .ok ((d.drop 5).take n.toNat) := by
  have hfirst : byteAt d 0 = n := by simp [byteAt, List.getD, hn]
  have hcount : 4 + n.toNat + 1 - 5 = n.toNat := by omega
  rw [openEnvelope, (crcCheck_last_two c _ hlen).mpr h, hfirst, slice, slice, hcount]
  rfl

end

end Sys2Proof.Machine
end

section
/-! The statements about the cipher, the symmetric codec and STUFF (spec/42_symmetric_codec.md,
43_frame_codec.md section 1). -/

namespace Sys2Proof.Proofs.Codec

open Sys2Proof Sys2Proof.Machine

/-- Settles O6: each direction of the cipher is the other's inverse. -/
theorem aesBlockInverts : Obligations.AesBlockInverts := by
  intro k x s t dir
  refine ⟨aesBlock k x dir, exec_aesBlock k x dir s, ?_⟩
  cases dir with
  | enc => rw [exec_aesBlock, aesBlock, aesBlock, aesDec_aesEnc, State.emit]
  | dec => rw [exec_aesBlock, aesBlock, aesBlock, aesEnc_aesDec, State.emit]

/-- Settles O7: beyond R198's bound the one branch refuses, and within it the padding is what the draw input
delivers. -/
theorem envelopeBuilt : Obligations.EnvelopeBuilt := by
  intro inner ctr s
  refine ⟨fun hlong => ?_, fun hlen => ⟨?_, fun pad rest hpad => ?_⟩⟩
  · rw [exec_envelope_of_too_long inner ctr s hlong]
    exact refused_refuse s .payloadTooLong
  · obtain ⟨hpad, draws, drawCount, hdrawn⟩ := drawBytes_frame (padCount inner.length) s
    refine ⟨_, draws, drawCount, hpad,
      Nat.mod_eq_zero_of_dvd (dvd_envelope_length_of_pad s.cfg inner ctr hpad), ?_⟩
    rw [exec_envelope inner ctr s hlen, hdrawn, envelopeWith_eq_envelope, State.emit]
  · rw [← padCount_eq_padLength] at hpad
    rw [exec_envelope inner ctr _ hlen, ← hpad, drawBytes_append, envelopeWith_eq_envelope, State.emit]

/-- Settles O8: as for ENVELOPE, and the packet's blocks are the envelope's enciphered. -/
theorem encryptBuilt : Obligations.EncryptBuilt := by
  intro inner ctr key s
  refine ⟨fun hlong => ?_, fun hlen => ⟨?_, fun pad rest hpad => ?_⟩⟩
  · rw [exec_encrypt_of_too_long inner ctr s key hlong]
    exact refused_refuse s .payloadTooLong
  · obtain ⟨pad, draws, drawCount, hpad, hexec⟩ := exec_encrypt_frame inner ctr key s hlen
    obtain ⟨cipher, hpacket, hblocks⟩ := encryptWith_blockwise s.cfg inner ctr key hpad
    exact ⟨pad, cipher, draws, drawCount, hpad, hblocks, by rw [hexec, hpacket]⟩
  · rw [← padCount_eq_padLength] at hpad
    obtain ⟨cipher, hpacket, hblocks⟩ := encryptWith_blockwise s.cfg inner ctr key hpad
    refine ⟨cipher, hblocks, ?_⟩
    rw [exec_encrypt inner ctr key _ hlen, ← hpad, drawBytes_append, hpacket, State.emit]

/-- Settles O9: the checks as nested alternatives, each taken where the ones before it pass. -/
theorem decryptChecksInOrder : Obligations.DecryptChecksInOrder := by
  intro p key ctr s
  refine ⟨⟨rfl, rfl⟩, fun hlength => ?_, fun hne hdvd => ?_⟩
  · exact (opens_iff ..).mpr (decryptPayload_of_length key ctr hlength)
  refine ⟨ecb (keyBlock s.cfg key) (p.drop 1) .dec, blockwise_ecb _ .dec (Nat.dvd_of_mod_eq_zero hdvd), ?_⟩
  have hlen : 2 ≤ (ecb (keyBlock s.cfg key) (p.drop 1) .dec).length := by rw [ecb_length]; omega
  simp only [opens_iff, decryptPayload_of_blocks key ctr hne hdvd]
  generalize ecb (keyBlock s.cfg key) (p.drop 1) .dec = d at hlen ⊢
  refine ⟨openEnvelope_of_bad_crc hlen, fun hcrc => ?_⟩
  have hopen (n : Byte) (hn : d[0]? = some n) := openEnvelope_of_good_crc hlen (ctr := ctr) hcrc hn
  refine ⟨fun hctr => ?_, fun hctr n hn => ⟨fun hlong => ?_, fun hfits => ?_⟩⟩
  · rw [hopen d[0] (List.getElem?_eq_getElem (by omega)), if_pos hctr]
  · rw [hopen n hn, if_neg (not_not.mpr hctr), if_pos hlong]
  · rw [hopen n hn, if_neg (not_not.mpr hctr), if_neg (Nat.not_lt.mpr hfits)]

/-- Settles O12: STUFF's loop sends every later start marker twice. -/
theorem stuffDoublesMarkers : Obligations.StuffDoublesMarkers := by
  intro first rest s
  refine ⟨⟨rfl, rfl⟩, ?_, ?_⟩
  · rw [← stuffBody_eq_stuffed]
    rfl
  · rw [← stuffBody_eq_stuffed, stuffBody, List.length_cons, doubled_length, List.length_cons]
    omega

end Sys2Proof.Proofs.Codec
end

section
/-! SUPPORT. The deframer byte by byte and frame by frame (spec/43_frame_codec.md sections 2 and 3). -/

namespace Sys2Proof.Machine

open Sys2Proof

/-! ### Which bytes are heard (R235, R236; 60_exceptions.md R343) -/

theorem arrive_of_unheard {s : State} (h : s.rx.ready = true ∨ s.rx.expected = none ∨
    s.linkState ≠ .awaitingResponse ∨ s.transportOpen = false) (b : Byte) : s.arrive b = s := by
  have hdeaf : s.transportOpen = false ∨ s.hears = false := by
    rcases h with h | h | h | h
    · exact .inr (by simp [State.hears, h])
    · exact .inr (by simp [State.hears, h])
    · exact .inr (by simp [State.hears, h])
    · exact .inl h
  rcases hdeaf with h | h
  · rw [State.arrive, h, if_neg Bool.false_ne_true]
  · rw [State.arrive, State.receive, h, if_neg Bool.false_ne_true, ite_self]

theorem arriveAll_of_unheard {s : State} (h : s.rx.ready = true ∨ s.rx.expected = none ∨
    s.linkState ≠ .awaitingResponse ∨ s.transportOpen = false) (bs : List Byte) :
    s.arriveAll bs = s := by
  induction bs with
  | nil => rfl
  | cons b bs ih =>
    show (s.arrive b).arriveAll bs = s
    rw [arrive_of_unheard h, ih]

theorem exec_rxByte (b : Byte) (s : State) : exec (.rxByte b) s = .next (s.arrive b) := rfl

theorem feed_eq_arriveAll (bs : List Byte) (s : State) : feed bs s = .next (s.arriveAll bs) := by
  induction bs generalizing s with
  | nil => rfl
  | cons b bs ih => exact ih (s.arrive b)

section
variable {s : State} {a : Addr} (hl : s.linkState = .awaitingResponse) (ho : s.transportOpen = true)
include hl ho

/-- A byte that is heard is the deframer's step. -/
theorem arrive_of_heard (hr : s.rx.ready = false) (he : s.rx.expected = some a) (b : Byte) :
    s.arrive b =
      { s with rx := (s.rx.step s.cfg b).1, log := s.log ++ (s.rx.step s.cfg b).2 } := by
  have hhears : s.hears = true := by simp [State.hears, hr, he, hl]
  rw [State.arrive, if_pos ho, State.receive, if_pos hhears]

end

/-! ### The deframer's steps (R224) -/

section
variable {c : Config} {d : Deframer} {b : Byte}

theorem step_of_start (hs : d.state = .waitStart) :
    d.step c c.stx =
      ({ d with buf := [c.stx], total := none, stuffed := false, state := .inFrame }, []) := by
  simp only [Deframer.step, hs, if_true]

theorem step_of_garbage (hs : d.state = .waitStart) (hb : b ≠ c.stx) :
    d.step c b = (d, [.garbage b]) := by
  simp only [Deframer.step, hs, if_neg hb]

theorem step_of_first_marker (hs : d.state = .inFrame) (hf : d.stuffed = false) :
    d.step c c.stx = (d.setStuffed true, []) := by
  simp only [Deframer.step, hs, hf, Bool.false_eq_true, if_false, if_true]

theorem step_of_restart (hs : d.state = .inFrame) (hf : d.stuffed = true) (hb : b ≠ c.stx) :
    d.step c b = ({ d with buf := [c.stx, b], total := none, stuffed := false }, [.restart d.buf]) := by
  simp only [Deframer.step, hs, hf, if_true, if_neg hb]

/-- A data byte: a second start marker behind a first, or any other byte without one. -/
theorem step_of_data (hs : d.state = .inFrame) (h : d.stuffed = true ↔ b = c.stx) :
    d.step c b = (d.setStuffed false).consume c b := by
  by_cases hb : b = c.stx
  · simp only [Deframer.step, hs, h.mpr hb, hb, if_true]
  · have hf : d.stuffed = false := Bool.eq_false_iff.mpr fun hf => hb (h.mp hf)
    have hsame : d.setStuffed false = d := by rw [Deframer.setStuffed, ← hf]
    simp only [Deframer.step, hs, hf, hsame, if_neg hb, Bool.false_eq_true, if_false]

end

/-! ### Inside a frame -/

/-- The deframer in the middle of a frame for `a`, with the bytes so far. -/
def Deframer.reading (a : Addr) (buf : List Byte) : Deframer where
  state := .inFrame
  stuffed := false
  ready := false
  buf := buf
  total := if buf.length < 3 then none else some ((byteAt buf 2).toNat + 5)
  expected := some a

/-- Every coherent deframer in a frame is one, but for a start marker it may have just seen. -/
theorem setStuffed_eq_reading {c : Config} {d : Deframer} {a : Addr} (h : DeframerInv c d)
    (hs : d.state = .inFrame) (he : d.expected = some a) :
    d.setStuffed false = Deframer.reading a d.buf := by
  obtain ⟨hr, _, hnone, hsome⟩ := h.inFrame hs
  have htotal : d.total = if d.buf.length < 3 then none else some ((byteAt d.buf 2).toNat + 5) := by
    split
    · exact hnone ‹_›
    · exact (hsome (by omega)).1
  rw [Deframer.setStuffed, Deframer.reading, ← htotal, ← hs, ← hr, ← he]

theorem byteAt_append_left {xs : List Byte} (ys : List Byte) {i : Nat} (h : i < xs.length) :
    byteAt (xs ++ ys) i = byteAt xs i := by
  simp [byteAt, List.getD, List.getElem?_append_left h]

theorem reading_append (a : Addr) (buf : List Byte) (b : Byte) :
    (Deframer.reading a buf).append b = Deframer.reading a (buf ++ [b]) := by
  have htotal : (if (buf ++ [b]).length = 3 then some ((byteAt (buf ++ [b]) 2).toNat + 5)
        else if buf.length < 3 then none else some ((byteAt buf 2).toNat + 5)) =
      if (buf ++ [b]).length < 3 then none else some ((byteAt (buf ++ [b]) 2).toNat + 5) := by
    simp only [List.length_append, List.length_singleton]
    by_cases h3 : buf.length + 1 = 3
    · rw [if_pos h3, if_neg (by omega)]
    · rw [if_neg h3]
      by_cases hlt : buf.length < 3
      · rw [if_pos hlt, if_pos (by omega)]
      · rw [if_neg hlt, if_neg (by omega), byteAt_append_left [b] (by omega)]
  rw [Deframer.append, Deframer.reading, Deframer.reading, ← htotal]

/-- CONSUME inside a frame: the byte joins the others, and the last one declared completes them (R230,
R231). -/
theorem reading_consume (c : Config) (a : Addr) (buf : List Byte) (b : Byte) :
    (Deframer.reading a buf).consume c b =
      if (Deframer.reading a (buf ++ [b])).total = some (buf ++ [b]).length then
        (Deframer.reading a (buf ++ [b])).complete c
      else (Deframer.reading a (buf ++ [b]), []) := by
  rw [Deframer.consume, reading_append]
  rfl

theorem reading_total (a : Addr) {buf : List Byte} (h : 3 ≤ buf.length) :
    (Deframer.reading a buf).total = some ((byteAt buf 2).toNat + 5) := if_neg (Nat.not_lt.mpr h)

theorem reading_consume_of_short (c : Config) (a : Addr) {buf : List Byte} {b : Byte}
    (h : (buf ++ [b]).length < 3) :
    (Deframer.reading a buf).consume c b = (Deframer.reading a (buf ++ [b]), []) := by
  have hnone : (Deframer.reading a (buf ++ [b])).total = none := if_pos h
  rw [reading_consume, hnone, if_neg nofun]

theorem reading_consume_of_more (c : Config) (a : Addr) {buf : List Byte} {b : Byte}
    (h3 : 3 ≤ (buf ++ [b]).length) (h : (buf ++ [b]).length ≠ (byteAt (buf ++ [b]) 2).toNat + 5) :
    (Deframer.reading a buf).consume c b = (Deframer.reading a (buf ++ [b]), []) := by
  rw [reading_consume, reading_total a h3, if_neg fun heq => h (Option.some.inj heq).symm]

theorem reading_consume_of_last (c : Config) (a : Addr) {buf : List Byte} {b : Byte}
    (h : (buf ++ [b]).length = (byteAt (buf ++ [b]) 2).toNat + 5) :
    (Deframer.reading a buf).consume c b = (Deframer.reading a (buf ++ [b])).complete c := by
  rw [reading_consume, reading_total a (by omega), if_pos (by rw [h])]

/-! ### COMPLETE (R231-R234) -/

/-- The address's seven bits are the byte's low ones (90_conflicts.md C5). -/
theorem addrOf_eq_setWidth (b : Byte) : addrOf b = b.setWidth 7 := by
  apply BitVec.eq_of_getLsbD_eq
  intro i hi
  have hmask : ∀ j : Fin 7, (0x7F : Byte).getLsbD j.val = true := by decide
  rw [addrOf, BitVec.getLsbD_setWidth, BitVec.getLsbD_and, hmask ⟨i, hi⟩, Bool.and_true,
    BitVec.getLsbD_setWidth]

theorem frameGood_iff (c : Config) {f : List Byte} (h : 2 ≤ f.length) :
    frameGood c f = true ↔
      f.drop (f.length - 2) = Spec.crcTail c ((f.drop 1).take (f.length - 3)) := by
  have hslice : slice f 1 (f.length - 3) = (f.drop 1).take (f.length - 3) := by
    rw [slice, Nat.add_sub_cancel]
  rw [frameGood, hslice, crcCheck_last_two c _ h]

section
variable {c : Config} {a : Addr} {f : List Byte}

theorem complete_of_other_addr (h : a ≠ (byteAt f 1).setWidth 7) :
    (Deframer.reading a f).complete c = (Spec.fresh a, [.discardAddress f]) := by
  have hne : some a ≠ some (addrOf (byteAt f 1)) := by
    rw [addrOf_eq_setWidth]
    exact fun heq => h (Option.some.inj heq)
  exact if_pos hne

variable (haddr : a = (byteAt f 1).setWidth 7)
include haddr

theorem complete_of_good (hlen : f.length = (byteAt f 2).toNat + 5) (h : frameGood c f = true) :
    (Deframer.reading a f).complete c = (Spec.accepted f a, [.ready f]) := by
  have heq : ¬some a ≠ some (addrOf (byteAt f 1)) := by rw [addrOf_eq_setWidth, ← haddr, not_not]
  have hready : (Deframer.reading a f).setReady = Spec.accepted f a := by
    have htotal : (Deframer.reading a f).total = some f.length := by
      rw [reading_total a (by omega), hlen]
    rw [Deframer.setReady, htotal]
    rfl
  rw [← hready]
  exact (if_neg heq).trans (if_pos h)

theorem complete_of_bad (h : frameGood c f = false) :
    (Deframer.reading a f).complete c = (Spec.fresh a, [.discardCrc f]) := by
  have heq : ¬some a ≠ some (addrOf (byteAt f 1)) := by rw [addrOf_eq_setWidth, ← haddr, not_not]
  exact (if_neg heq).trans (if_neg (Bool.eq_false_iff.mp h))

end

/-! ### A stuffed frame, byte by byte -/

section
variable {a : Addr}

/-- A data byte as it stands on the wire, once or, a start marker, twice, is one CONSUME. -/
theorem arriveAll_doubled_cons {s : State} {buf : List Byte} (hl : s.linkState = .awaitingResponse)
    (ho : s.transportOpen = true) (hrx : s.rx = Deframer.reading a buf) (b : Byte) (bs : List Byte) :
    s.arriveAll (doubled s.cfg.stx (b :: bs)) =
      State.arriveAll { s with
        rx := ((Deframer.reading a buf).consume s.cfg b).1
        log := s.log ++ ((Deframer.reading a buf).consume s.cfg b).2 } (doubled s.cfg.stx bs) := by
  by_cases hb : b = s.cfg.stx
  · have hfirst : s.arrive s.cfg.stx = { s with rx := (Deframer.reading a buf).setStuffed true } := by
      rw [arrive_of_heard (a := a) hl ho (by rw [hrx]; rfl) (by rw [hrx]; rfl), hrx,
        step_of_first_marker rfl rfl, List.append_nil]
    have hsecond : State.arrive { s with rx := (Deframer.reading a buf).setStuffed true } s.cfg.stx =
        { s with
          rx := ((Deframer.reading a buf).consume s.cfg s.cfg.stx).1
          log := s.log ++ ((Deframer.reading a buf).consume s.cfg s.cfg.stx).2 } := by
      have hdata : ((Deframer.reading a buf).setStuffed true).step s.cfg s.cfg.stx =
          (Deframer.reading a buf).consume s.cfg s.cfg.stx := step_of_data rfl (iff_of_true rfl rfl)
      rw [arrive_of_heard (s := { s with rx := (Deframer.reading a buf).setStuffed true }) (a := a)
        hl ho rfl rfl, hdata]
    rw [doubled, if_pos hb, hb]
    show ((s.arrive s.cfg.stx).arrive s.cfg.stx).arriveAll _ = _
    rw [hfirst, hsecond]
  · have hdata : (Deframer.reading a buf).step s.cfg b = (Deframer.reading a buf).consume s.cfg b :=
      step_of_data rfl (iff_of_false nofun hb)
    rw [doubled, if_neg hb]
    show (s.arrive b).arriveAll _ = _
    rw [arrive_of_heard (a := a) hl ho (by rw [hrx]; rfl) (by rw [hrx]; rfl), hrx, hdata]

/-- The rest of a frame on the wire completes it (R230, R231). -/
theorem arriveAll_doubled_rest (rest : List Byte) {s : State} {buf f : List Byte}
    (hl : s.linkState = .awaitingResponse) (ho : s.transportOpen = true)
    (hrx : s.rx = Deframer.reading a buf) (hf : f = buf ++ rest) (hne : rest ≠ [])
    (hlen : f.length = (byteAt f 2).toNat + 5) :
    s.arriveAll (doubled s.cfg.stx rest) = { s with
      rx := ((Deframer.reading a f).complete s.cfg).1
      log := s.log ++ ((Deframer.reading a f).complete s.cfg).2 } := by
  induction rest generalizing s buf with
  | nil => exact absurd rfl hne
  | cons b bs ih =>
    rw [arriveAll_doubled_cons hl ho hrx]
    have hsplit : f = buf ++ [b] ++ bs := by rw [hf, List.append_assoc]; rfl
    cases bs with
    | nil =>
      rw [List.append_nil] at hsplit
      rw [reading_consume_of_last s.cfg a (hsplit ▸ hlen), ← hsplit]
      rfl
    | cons b' bs =>
      have hmore : (Deframer.reading a buf).consume s.cfg b = (Deframer.reading a (buf ++ [b]), []) := by
        by_cases h3 : (buf ++ [b]).length < 3
        · exact reading_consume_of_short s.cfg a h3
        · have hdeclared : byteAt (buf ++ [b]) 2 = byteAt f 2 := by
            rw [hsplit]
            exact (byteAt_append_left (xs := buf ++ [b]) (b' :: bs) (by omega)).symm
          refine reading_consume_of_more s.cfg a (by omega) ?_
          rw [hdeclared, ← hlen, hsplit]
          simp
      rw [hmore, List.append_nil]
      exact ih (s := { s with rx := Deframer.reading a (buf ++ [b]) }) hl ho rfl hsplit (by simp)

end

/-! ### Whole frames -/

section
variable (c : Config) (sa : Byte) (p : List Byte)

theorem body_length : (Spec.body c sa p).length = p.length + 5 := by
  simp [Spec.body, Spec.crcTail]

theorem body_declared (h : p.length ≤ 255) :
    (Spec.body c sa p).length = (byteAt (Spec.body c sa p) 2).toNat + 5 := by
  have hbyte : byteAt (Spec.body c sa p) 2 = BitVec.ofNat 8 p.length := rfl
  rw [body_length, hbyte, BitVec.toNat_ofNat, Nat.mod_eq_of_lt (by omega)]

/-- 30_encoding.md R104: a frame's last two bytes are the CRC of those between it and the start marker. -/
theorem frameGood_body : frameGood c (Spec.body c sa p) = true := by
  have hlen := body_length c sa p
  rw [frameGood_iff c (by omega), hlen]
  simp [Spec.body]

theorem payload_body : Spec.payload (Spec.body c sa p) = p := by
  rw [Spec.payload, body_length, Nat.add_sub_cancel]
  simp [Spec.body]

theorem body_eq_cons : Spec.body c sa p = [c.stx] ++ (Spec.body c sa p).tail := rfl

theorem body_eq_cons_cons :
    Spec.body c sa p = [c.stx, sa] ++ (Spec.body c sa p).tail.tail := rfl

/-- 30_encoding.md R105: behind its first byte a wire frame doubles every start marker. -/
theorem stuffed_body : Spec.stuffed c (Spec.body c sa p) =
    c.stx :: doubled c.stx (Spec.body c sa p).tail := by
  rw [doubled_eq_flatMap]
  rfl

end

/-- Section 3, resilience: a frame on the wire is completed from WAIT_START, and from inside a frame unless a
start marker was just seen or its address byte is one. -/
theorem arriveAll_wireFrame {s : State} {a : Addr} {sa : Byte} {p : List Byte}
    (hl : s.linkState = .awaitingResponse) (ho : s.transportOpen = true) (hr : s.rx.ready = false)
    (he : s.rx.expected = some a) (hp : p.length ≤ 255)
    (hstart : s.rx.state = .waitStart ∨ (s.rx.stuffed = false ∧ sa ≠ s.cfg.stx)) :
    ∃ notes, (s.rx.state = .waitStart → notes = []) ∧
      s.arriveAll (Spec.stuffed s.cfg (Spec.body s.cfg sa p)) = { s with
        rx := ((Deframer.reading a (Spec.body s.cfg sa p)).complete s.cfg).1
        log := s.log ++ notes ++ ((Deframer.reading a (Spec.body s.cfg sa p)).complete s.cfg).2 } := by
  have hdeclared := body_declared s.cfg sa p hp
  rw [stuffed_body]
  cases hs : s.rx.state with
  | waitStart =>
    refine ⟨[], fun _ => rfl, ?_⟩
    have hfirst : s.arrive s.cfg.stx = { s with rx := Deframer.reading a [s.cfg.stx] } := by
      have hreading : { s.rx with
          buf := [s.cfg.stx], total := none, stuffed := false, state := .inFrame } =
          Deframer.reading a [s.cfg.stx] := by
        show Deframer.mk .inFrame false s.rx.ready [s.cfg.stx] none s.rx.expected = _
        rw [hr, he]
        rfl
      rw [arrive_of_heard hl ho hr he, step_of_start hs, hreading, List.append_nil]
    show (s.arrive s.cfg.stx).arriveAll _ = _
    rw [hfirst, List.append_nil]
    exact arriveAll_doubled_rest (s := { s with rx := Deframer.reading a [s.cfg.stx] }) _ hl ho rfl
      (body_eq_cons s.cfg sa p) (by simp [Spec.body]) hdeclared
  | inFrame =>
    refine ⟨[.restart s.rx.buf], nofun, ?_⟩
    obtain ⟨hf, hsa⟩ := hstart.resolve_left (by simp [hs])
    have hfirst : s.arrive s.cfg.stx = { s with rx := s.rx.setStuffed true } := by
      rw [arrive_of_heard hl ho hr he, step_of_first_marker hs hf, List.append_nil]
    have hsecond : State.arrive { s with rx := s.rx.setStuffed true } sa = { s with
        rx := Deframer.reading a [s.cfg.stx, sa], log := s.log ++ [.restart s.rx.buf] } := by
      have hreading : { s.rx.setStuffed true with
          buf := [s.cfg.stx, sa], total := none, stuffed := false } =
          Deframer.reading a [s.cfg.stx, sa] := by
        simp only [Deframer.setStuffed, hr, he, hs]
        rfl
      rw [arrive_of_heard (s := { s with rx := s.rx.setStuffed true }) hl ho hr he,
        step_of_restart (d := s.rx.setStuffed true) hs rfl hsa, hreading]
      rfl
    have hdoubled : doubled s.cfg.stx (Spec.body s.cfg sa p).tail =
        sa :: doubled s.cfg.stx (Spec.body s.cfg sa p).tail.tail := if_neg hsa
    rw [hdoubled]
    show ((s.arrive s.cfg.stx).arrive sa).arriveAll _ = _
    rw [hfirst, hsecond]
    exact arriveAll_doubled_rest (s := { s with
      rx := Deframer.reading a [s.cfg.stx, sa], log := s.log ++ [.restart s.rx.buf] }) _ hl ho rfl
      (body_eq_cons_cons s.cfg sa p) (by simp [Spec.body]) hdeclared

/-- R233: a frame for the expected address is accepted. -/
theorem complete_body (c : Config) {a : Addr} {sa : Byte} {p : List Byte} (ha : sa.setWidth 7 = a)
    (hp : p.length ≤ 255) :
    (Deframer.reading a (Spec.body c sa p)).complete c =
      (Spec.accepted (Spec.body c sa p) a, [.ready (Spec.body c sa p)]) :=
  complete_of_good ha.symm (body_declared c sa p hp) (frameGood_body c sa p)

/-- R233: a fresh deframer accepts a frame for its address, and logs nothing else. -/
theorem arriveAll_of_fresh {s : State} {sa : Byte} {p : List Byte}
    (hl : s.linkState = .awaitingResponse) (ho : s.transportOpen = true)
    (hrx : s.rx = Spec.fresh (sa.setWidth 7)) (hp : p.length ≤ 255) :
    s.arriveAll (Spec.stuffed s.cfg (Spec.body s.cfg sa p)) = Spec.heard s sa p := by
  obtain ⟨notes, hnotes, hframe⟩ := arriveAll_wireFrame hl ho (by rw [hrx]; rfl) (by rw [hrx]; rfl) hp
    (.inl (by rw [hrx]; rfl))
  rw [hframe, hnotes (by rw [hrx]; rfl), complete_body s.cfg rfl hp, List.append_nil, Spec.heard]

/-- R232: a fresh deframer discards a frame for another address. -/
theorem arriveAll_of_other_addr {s : State} {a : Addr} {sa : Byte} {p : List Byte}
    (hl : s.linkState = .awaitingResponse) (ho : s.transportOpen = true) (hrx : s.rx = Spec.fresh a)
    (hsa : sa.setWidth 7 ≠ a) (hp : p.length ≤ 255) :
    s.arriveAll (Spec.stuffed s.cfg (Spec.body s.cfg sa p)) =
      { s with log := s.log ++ [.discardAddress (Spec.body s.cfg sa p)] } := by
  obtain ⟨notes, hnotes, hframe⟩ := arriveAll_wireFrame hl ho (by rw [hrx]; rfl) (by rw [hrx]; rfl) hp
    (.inl (by rw [hrx]; rfl))
  have hother : a ≠ (byteAt (Spec.body s.cfg sa p) 1).setWidth 7 := hsa.symm
  rw [hframe, hnotes (by rw [hrx]; rfl), complete_of_other_addr hother, List.append_nil, ← hrx]

/-! ### The address+sequence byte (30_encoding.md R102) -/

section
variable (seq : Bool) (a : Addr)

theorem addrByte_toNat : (Spec.addrByte seq a).toNat = (if seq then 128 else 0) + a.toNat := by
  have ha := a.isLt
  rw [Spec.addrByte, BitVec.toNat_ofNat]
  split <;> omega

theorem addrByte_setWidth : (Spec.addrByte seq a).setWidth 7 = a := by
  apply BitVec.eq_of_toNat_eq
  have ha := a.isLt
  rw [BitVec.toNat_setWidth, addrByte_toNat]
  split <;> omega

theorem addrByte_and_mask : Spec.addrByte seq a &&& 0x7F = a.setWidth 8 := by
  apply BitVec.eq_of_toNat_eq
  have ha := a.isLt
  have hmask : ((0x7F : Byte)).toNat = 2 ^ 7 - 1 := rfl
  rw [BitVec.toNat_and, hmask, Nat.and_two_pow_sub_one_eq_mod, addrByte_toNat, BitVec.toNat_setWidth]
  split <;> omega

theorem addrByte_getLsbD : (Spec.addrByte seq a).getLsbD 7 = seq := by
  have hbit : a.toNat.testBit 7 = false := Nat.testBit_lt_two_pow a.isLt
  rw [← BitVec.testBit_toNat, addrByte_toNat]
  cases seq with
  | false => simpa using hbit
  | true => exact (Nat.testBit_two_pow_add_eq a.toNat 7).trans (by rw [hbit]; rfl)

end

end Sys2Proof.Machine
end

section
/-! The statements about the deframer (spec/43_frame_codec.md sections 2 and 3). -/

namespace Sys2Proof.Proofs.Deframing

open Sys2Proof Sys2Proof.Machine

/-- Settles O13: the frame's bytes are those of the body, stuffed, and a fresh deframer accepts them. -/
theorem frameRoundTrip : Obligations.FrameRoundTrip := by
  intro a seq xs s hxs hl ho
  have haddr : (a.setWidth 8).toNat ≤ 127 := by
    have ha := a.isLt
    rw [BitVec.toNat_setWidth]
    omega
  have hwidth : (a.setWidth 8).setWidth 7 = a := by simp
  have hsa := addrByte_setWidth seq a
  have hheard := arriveAll_of_fresh (s := s.rxReset a) (sa := Spec.addrByte seq a) (p := xs) hl ho
    (by rw [hsa]; rfl) (by omega)
  refine ⟨_, s.rxReset a, _, exec_frameEncode _ seq xs s haddr hxs, exec_rxReset a s,
    feed_eq_arriveAll _ _, ?_⟩
  rw [hwidth, frameEncode_eq_stuffed_body]
  rw [State.rxReset_cfg] at hheard
  rw [hheard]
  refine ⟨rfl, rfl, ⟨Spec.addrByte seq a, rfl, addrByte_and_mask seq a, addrByte_getLsbD seq a⟩,
    payload_body s.cfg _ xs, rfl⟩

/-- Settles O14: wherever the frame found the deframer, its bytes complete it. -/
theorem frameSurvivesGarbage : Obligations.FrameSurvivesGarbage := by
  intro a seq xs s hxs hl ho he hr hstart
  obtain ⟨notes, _, hframe⟩ := arriveAll_wireFrame hl ho hr he (p := xs) (by omega) hstart
  rw [complete_body s.cfg (addrByte_setWidth seq a) (by omega)] at hframe
  exact ⟨_, (feed_eq_arriveAll _ s).trans (congrArg _ hframe)⟩

/-- Settles O15: a byte that is not heard changes nothing. -/
theorem rxByteDropped : Obligations.RxByteDropped := by
  intro b s hunheard
  rw [exec_rxByte, arrive_of_unheard hunheard]

/-- What a byte that is heard does, by the deframer's step and its notes. -/
theorem exec_rxByte_of_step {s : State} {a : Addr} {b : Byte} {d : Deframer} {notes : List LogEntry}
    (hl : s.linkState = .awaitingResponse) (ho : s.transportOpen = true) (hr : s.rx.ready = false)
    (he : s.rx.expected = some a) (h : s.rx.step s.cfg b = (d, notes)) :
    exec (.rxByte b) s = .next { s with rx := d, log := s.log ++ notes } := by
  rw [exec_rxByte, arrive_of_heard hl ho hr he, h]

/-- The data bytes of R224: by how many bytes the buffer then holds of those its length byte declares. -/
theorem step_of_data_byte {c : Config} {d : Deframer} {a : Addr} {b : Byte} (hinv : DeframerInv c d)
    (he : d.expected = some a) (hs : d.state = .inFrame) (hb : d.stuffed = true ↔ b = c.stx) :
    d.step c b = (Deframer.reading a d.buf).consume c b := by
  rw [step_of_data hs hb, setStuffed_eq_reading hinv hs he]

/-- Settles O16: each byte by the deframer's control state, and a data byte by what it completes. -/
theorem rxByteFollowsDeframer : Obligations.RxByteFollowsDeframer := by
  intro b a s buf hinv hr he hl ho
  have hexec {d : Deframer} {notes : List LogEntry} (h : s.rx.step s.cfg b = (d, notes)) :=
    exec_rxByte_of_step hl ho hr he h
  have hquiet {d : Deframer} (h : s.rx.step s.cfg b = (d, [])) :
      exec (.rxByte b) s = .next { s with rx := d } := by rw [hexec h, List.append_nil]
  refine ⟨?_, fun hs hb => hexec (step_of_garbage hs hb), ?_, fun hs hf hb => hexec ?_,
    fun hs hb hbuf => ?_⟩
  · rintro hs rfl
    refine hquiet ((step_of_start hs).trans ?_)
    show (Deframer.mk .inFrame false s.rx.ready [s.cfg.stx] none s.rx.expected, _) = _
    rw [hr, he]
    rfl
  · rintro hs hf rfl
    exact hquiet (step_of_first_marker hs hf)
  · refine (step_of_restart hs hf hb).trans ?_
    show (Deframer.mk s.rx.state false s.rx.ready [s.cfg.stx, b] none s.rx.expected, _) = _
    rw [hs, hr, he]
    rfl
  have hstep := step_of_data_byte hinv he hs hb
  have hrx {total : Option Nat} (htotal : (Deframer.reading a buf).total = total) :
      { s.rx with stuffed := false, buf := buf, total := total } = Deframer.reading a buf := by
    show Deframer.mk s.rx.state false s.rx.ready buf total s.rx.expected = _
    rw [hs, hr, he, ← htotal]
    rfl
  have hbyte {i : Nat} {v : Byte} (h : buf[i]? = some v) : byteAt buf i = v := by
    simp [byteAt, List.getD, h]
  have hlength : buf.length = s.rx.buf.length + 1 := by rw [hbuf]; simp
  refine ⟨fun hshort => ?_, fun len hlen hmore => ?_, fun len sa hlen hsa hlast => ?_⟩
  · obtain ⟨_, _, habsent, _⟩ := hinv.inFrame hs
    have htotal : s.rx.total = none := habsent (by omega)
    have hnone : (Deframer.reading a buf).total = s.rx.total := (if_pos hshort).trans htotal.symm
    refine hquiet (hstep.trans ?_)
    rw [reading_consume_of_short _ _ (hbuf ▸ hshort), ← hbuf, ← hrx hnone]
  · have h3 : 3 ≤ buf.length := by
      have := (List.getElem?_eq_some_iff.mp hlen).1
      omega
    have htotal : (Deframer.reading a buf).total = some (len.toNat + 5) := by
      rw [reading_total a h3, hbyte hlen]
    refine hquiet (hstep.trans ?_)
    rw [reading_consume_of_more _ _ (hbuf ▸ h3), ← hbuf, hrx htotal]
    rw [← hbuf, hbyte hlen]
    omega
  · have hdeclared : buf.length = (byteAt buf 2).toNat + 5 := by rw [hbyte hlen, hlast]
    rw [reading_consume_of_last _ _ (hbuf ▸ hdeclared), ← hbuf] at hstep
    refine ⟨fun hother => hexec (hstep.trans (complete_of_other_addr ?_)), fun hmine =>
      ⟨fun hcrc => hexec (hstep.trans (complete_of_good ?_ hdeclared ?_)),
        fun hcrc => hexec (hstep.trans (complete_of_bad ?_ ?_))⟩⟩
    · rw [hbyte hsa]
      exact hother.symm
    · rw [hbyte hsa, hmine]
    · exact (frameGood_iff s.cfg (by omega)).mpr hcrc
    · rw [hbyte hsa, hmine]
    · rw [← Bool.not_eq_true, frameGood_iff s.cfg (by omega)]
      exact hcrc

end Sys2Proof.Proofs.Deframing
end

section
/-! SUPPORT. The response rows: a device's frame and then DECODE (spec/45_wire_commands.md section 2). -/

namespace Sys2Proof.Machine

open Sys2Proof

theorem exec_row {c : Config} {sa : Byte} {i : Instr} {p : List Byte} (h : Spec.RowOf c sa i p)
    {s : State} (hc : s.cfg = c) : exec i s = .next (s.deviceAnswers sa p) := by
  subst hc
  cases h <;> rfl

section
variable {s t : State} {sa : Byte} {p : List Byte}
  (ht : s.arriveAll (Spec.stuffed s.cfg (Spec.body s.cfg sa p)) = t)
include ht

/-- The frame made a frame ready for the exchange in progress, and its agent decodes it. -/
theorem deviceAnswers_of_ready {x : Exchange} (hx : t.cur = some x) (hr : s.rx.ready = false)
    (hready : t.rx.ready = true) : s.deviceAnswers sa p = t.decodeFrame x := by
  simp only [State.deviceAnswers, wireOf_eq_stuffed_body, ht, hx, hr, hready, Bool.not_false,
    Bool.and_true, if_true]

/-- The frame made no frame ready, or there is no exchange to decode it for. -/
theorem deviceAnswers_of_not_ready
    (h : s.rx.ready = true ∨ t.rx.ready = false ∨ t.cur = none) : s.deviceAnswers sa p = t := by
  simp only [State.deviceAnswers, wireOf_eq_stuffed_body, ht]
  cases hx : t.cur with
  | none => rfl
  | some x =>
    have hnot : (t.rx.ready && !s.rx.ready) = false := by
      rcases h with h | h | h
      · simp [h]
      · simp [h]
      · simp [hx] at h
    simp only [hnot, Bool.false_eq_true, if_false]

end

/-- Bytes that arrive leave the exchange in progress and the configuration alone, and make a frame ready only
while the exchange waits for a response (R224, R236). -/
theorem arriveAll_link {s t : State} {bs : List Byte} (ht : s.arriveAll bs = t) :
    t.cfg = s.cfg ∧ t.cur = s.cur ∧ t.linkState = s.linkState ∧
      (s.rx.ready = false → t.rx.ready = true → s.linkState = .awaitingResponse) := by
  obtain ⟨d, log, hframe, _, hchanged⟩ := arriveAll_frame bs s
  rw [hframe] at ht
  subst ht
  refine ⟨rfl, rfl, rfl, fun hr hready => hchanged ?_⟩
  rintro rfl
  exact absurd hready (by simp [hr])

section
variable {s : State} {x : Exchange} {sa : Byte} {i : Instr} {p : List Byte}
  (hrow : Spec.RowOf s.cfg sa i p) (hx : s.cur = some x) (hl : s.linkState = .awaitingResponse)
  (ho : s.transportOpen = true)
  (hrx : s.rx = Spec.fresh (sa.setWidth 7)) (hp : p.length ≤ 255)
include hrow hx hl ho hrx hp

/-- A row whose frame a fresh deframer accepts is the DECODE of that frame. -/
theorem exec_row_of_fresh : exec i s = .next ((Spec.heard s sa p).decodeFrame x) := by
  rw [exec_row hrow rfl, deviceAnswers_of_ready (arriveAll_of_fresh hl ho hrx hp) hx (by rw [hrx]; rfl) rfl]

/-- R273-R275 for a row in plain text. -/
theorem exec_plain_row {status : Byte} {data : List Byte} (hdata : p = status :: data)
    (hstatus : status ≠ s.cfg.encMarker) :
    exec i s = .next (Spec.answered { Spec.heard s sa p with seq := Spec.toggled s x.addr } x.owner
      (Spec.resultOf s.cfg status data) data) := by
  rw [exec_row_of_fresh hrow hx hl ho hrx hp]
  exact congrArg _ (decodeFrame_of_plain (s := Spec.heard s sa p)
    ((payload_body s.cfg sa p).trans hdata) hstatus)

end

/-! ### The result of a status byte (R273, R274) -/

theorem resultOf_of_status {c : Config} {status : Byte} (data : List Byte)
    (h : status ≠ c.notProcessedCode) : Spec.resultOf c status data = .resp status :=
  if_neg fun ⟨hstatus, _⟩ => h hstatus

theorem resultOf_of_data {c : Config} {status : Byte} {data : List Byte}
    (h : data.head? ≠ some c.busySubreason) : Spec.resultOf c status data = .resp status :=
  if_neg fun ⟨_, hdata⟩ => h (by rw [List.head?_eq_getElem?, hdata])

theorem resultOf_of_busy (c : Config) (more : List Byte) :
    Spec.resultOf c c.notProcessedCode (c.busySubreason :: more) = .busy := if_pos ⟨rfl, rfl⟩

end Sys2Proof.Machine
end

section
/-! The statements about the wire response rows (spec/45_wire_commands.md section 2). -/

namespace Sys2Proof.Proofs.Responses

open Sys2Proof Sys2Proof.Machine

/-- Settles O29: each row's frame is accepted and decoded, its status giving the result. -/
theorem responseRowsAnswer : Obligations.ResponseRowsAnswer := by
  intro sa data s x hok hnp hbusy hmarker hx hl ho haddr hrx
  have hrow {i : Instr} {status : Byte} {rest : List Byte} (h : Spec.RowOf s.cfg sa i (status :: rest))
      (hlen : (status :: rest).length ≤ 255) (hstatus : status ≠ s.cfg.encMarker) :=
    exec_plain_row h hx hl ho hrx hlen rfl hstatus
  refine ⟨fun hlen => ?_, fun hlen => ?_, fun hlen hhead => ?_, fun status hlen hnok hnnp hnm => ?_⟩
  · have hres := resultOf_of_status (c := s.cfg) (status := 0xF0) data (by rw [hnp]; decide)
    rw [← hres]
    exact hrow (hok ▸ .ok data) (Nat.succ_le_succ hlen) (by rw [hmarker]; decide)
  · have hres := resultOf_of_busy s.cfg data
    rw [hnp, hbusy] at hres
    rw [← hres]
    refine hrow ?_ (Nat.succ_le_succ (Nat.succ_le_succ hlen)) (by rw [hmarker]; decide)
    have hbusyRow := Spec.RowOf.deviceBusy (c := s.cfg) (sa := sa) data
    rwa [hnp, hbusy] at hbusyRow
  · have hres := resultOf_of_data (c := s.cfg) (status := 0xF5) (data := data) (by rwa [hbusy])
    rw [← hres]
    exact hrow (hnp ▸ .commandNotProcessed data) (Nat.succ_le_succ hlen) (by rw [hmarker]; decide)
  · have hres := resultOf_of_status (c := s.cfg) (status := status) data (by rwa [hnp])
    rw [← hres]
    exact hrow (.otherStatus status data) (Nat.succ_le_succ hlen) (by rwa [hmarker])

/-- Settles O30: the frame is accepted, and DECODE goes by the exchange's key and DECRYPT's answer. -/
theorem encryptedPacketAnswers : Obligations.EncryptedPacketAnswers := by
  intro sa cipher s x hx hl ho haddr hrx hlen
  have hexec := exec_row_of_fresh (.encryptedPacket cipher) hx hl ho hrx (Nat.succ_le_succ hlen)
  have hp : Spec.payload (Spec.heard s sa (s.cfg.encMarker :: cipher)).rx.buf =
      (Spec.heard s sa (s.cfg.encMarker :: cipher)).cfg.encMarker :: cipher := payload_body s.cfg sa _
  rw [hexec]
  refine ⟨fun hk => by rw [decodeFrame_of_noKey hp hk], fun k r hk hopens => ?_⟩
  rw [opens_iff] at hopens
  refine ⟨?_, ?_, ?_⟩
  · rintro e rfl
    rw [decodeFrame_of_error hp hk hopens]
  · rintro rfl
    rw [decodeFrame_of_opened hp hk hopens, conclusion_nil]
  · rintro st data rfl
    rw [decodeFrame_of_opened hp hk hopens, conclusion_cons, counted_true]
    rfl

/-- Settles O31: by whether the frame's bytes made a frame ready. -/
theorem responseRowsAreFrames : Obligations.ResponseRowsAreFrames := by
  intro sa p i s hrow hlegal
  obtain ⟨t, ht⟩ : ∃ t, s.arriveAll (Spec.stuffed s.cfg (Spec.body s.cfg sa p)) = t := ⟨_, rfl⟩
  refine ⟨⟨t, (feed_eq_arriveAll _ s).trans (congrArg _ ht), fun hr hready hcur => ?_, fun hnot => ?_⟩,
    fun a hrx hl ho hsa hp => ?_⟩
  · obtain ⟨hcfg, _, hlink, hawaiting⟩ := arriveAll_link ht
    obtain ⟨x, hx⟩ := Option.ne_none_iff_exists'.mp hcur
    rw [exec_row hrow rfl, deviceAnswers_of_ready ht hx hr hready,
      step_exchange_of_no_deadline (hcfg ▸ hlegal) hx (hlink.trans (hawaiting hr hready)) hready]
  · rw [exec_row hrow rfl, deviceAnswers_of_not_ready ht hnot]
  · have hdiscarded := arriveAll_of_other_addr hl ho hrx hsa hp
    rw [exec_row hrow rfl, deviceAnswers_of_not_ready hdiscarded (.inr (.inl (by rw [hrx]; rfl)))]

/-- Settles O32: no byte of the frame is heard. -/
theorem responseRowsUnheard : Obligations.ResponseRowsUnheard := by
  intro sa status data s hunheard
  have hrow {i : Instr} {p : List Byte} (h : Spec.RowOf s.cfg sa i p) : exec i s = .next s := by
    have hnot : s.rx.ready = true ∨ s.rx.ready = false ∨ s.cur = none := by cases s.rx.ready <;> simp
    rw [exec_row h rfl, deviceAnswers_of_not_ready (arriveAll_of_unheard hunheard _) hnot]
  exact ⟨hrow (.ok data), hrow (.deviceBusy data), hrow (.commandNotProcessed data),
    hrow (.otherStatus status data), hrow (.encryptedPacket data)⟩

end Sys2Proof.Proofs.Responses
end

section
/-! SUPPORT. What a NEGOTIATE draws and starts with, and its steps between its exchanges
(spec/41_key_negotiation.md sections 2 and 3). -/

namespace Sys2Proof.Machine

open Sys2Proof

/-! ### The values drawn (R166-R169) -/

theorem drawNegotiation_eq (s : State) : s.drawNegotiation =
    (⟨BitVec.ofNat 64 (min (s.drawPair (2 ^ s.cfg.primeBits)).1.1 (s.drawPair (2 ^ s.cfg.primeBits)).1.2),
      BitVec.ofNat 64 (max (s.drawPair (2 ^ s.cfg.primeBits)).1.1 (s.drawPair (2 ^ s.cfg.primeBits)).1.2),
      BitVec.ofNat 64 ((s.drawPair (2 ^ s.cfg.primeBits)).2.draw s.cfg.secretBound).1⟩,
      ((s.drawPair (2 ^ s.cfg.primeBits)).2.draw s.cfg.secretBound).2) := rfl

theorem toNat_pos_of_ne_zero {v : Word64} (h : v ≠ 0) : 0 < v.toNat :=
  Nat.pos_of_ne_zero fun h0 => h (BitVec.eq_of_toNat_eq h0)

theorem toNat_ofNat_of_lt {v : Nat} (h : v < 2 ^ 64) : (BitVec.ofNat 64 v).toNat = v := by
  rw [BitVec.toNat_ofNat, Nat.mod_eq_of_lt h]

/-- R33 (d): a draw below the primes' bound fits a register. -/
theorem lt_of_lt_primeBits {c : Config} (hlegal : legalConfig c = true) {v : Nat}
    (h : v < 2 ^ c.primeBits) : v < 2 ^ 64 := by
  obtain ⟨_, _, _, _, hbits⟩ := (legalConfig_iff c).mp hlegal
  exact Nat.lt_of_lt_of_le h (Nat.pow_le_pow_right (by decide) hbits)

/-- R167-R169: the generator drawn is below the modulus drawn, and each value below its bound. -/
theorem drawNegotiation_range (s : State) (hlegal : legalConfig s.cfg = true) :
    s.drawNegotiation.1.g.toNat < s.drawNegotiation.1.m.toNat ∧
      s.drawNegotiation.1.m.toNat < 2 ^ s.cfg.primeBits ∧
      s.drawNegotiation.1.r.toNat < s.cfg.secretBound := by
  obtain ⟨_, _, ⟨hsecret, hsecret64⟩, hbits, _⟩ := (legalConfig_iff s.cfg).mp hlegal
  have htwo : 2 ≤ 2 ^ s.cfg.primeBits := Nat.le_self_pow (by omega) 2
  obtain ⟨hne, hp, hq⟩ := drawPair_distinct s htwo
  have hr := draw_lt (s.drawPair (2 ^ s.cfg.primeBits)).2 (Nat.lt_of_lt_of_le Nat.zero_lt_one hsecret)
  rw [drawNegotiation_eq]
  generalize (s.drawPair (2 ^ s.cfg.primeBits)).1.1 = p at hne hp ⊢
  generalize (s.drawPair (2 ^ s.cfg.primeBits)).1.2 = q at hne hq ⊢
  have hmin : min p q < 2 ^ 64 := lt_of_lt_primeBits hlegal (by omega)
  have hmax : max p q < 2 ^ 64 := lt_of_lt_primeBits hlegal (by omega)
  simp only [toNat_ofNat_of_lt hmin, toNat_ofNat_of_lt hmax,
    toNat_ofNat_of_lt (Nat.lt_of_lt_of_le hr hsecret64)]
  exact ⟨by omega, by omega, hr⟩

/-- R168: two equal primes are drawn again. -/
theorem drawNegotiation_of_equal {s : State} {p q : Nat} {rest : List Nat}
    (h : p % 2 ^ s.cfg.primeBits = q % 2 ^ s.cfg.primeBits) :
    State.drawNegotiation { s with draws := p :: q :: rest } =
      State.drawNegotiation { s with draws := rest } := by
  have hpair : State.drawPair { s with draws := p :: q :: rest } (2 ^ s.cfg.primeBits) =
      State.drawPair { s with draws := rest } (2 ^ s.cfg.primeBits) := by
    simp only [State.drawPair, drawDistinct, if_pos h]
  rw [drawNegotiation_eq, drawNegotiation_eq, hpair]

theorem drawNegotiation_cons {s : State} {p q r : Nat} {rest : List Nat}
    (hdraws : s.draws = p :: q :: r :: rest) (hp : p < 2 ^ s.cfg.primeBits)
    (hq : q < 2 ^ s.cfg.primeBits) (hne : p ≠ q) (hr : r < s.cfg.secretBound) :
    s.drawNegotiation =
      (⟨BitVec.ofNat 64 (min p q), BitVec.ofNat 64 (max p q), BitVec.ofNat 64 r⟩,
        { s with draws := rest }) := by
  rw [drawNegotiation_eq, drawPair_cons s _ p q (r :: rest) hdraws hp hq hne,
    draw_cons { s with draws := r :: rest } _ r rest rfl, Nat.mod_eq_of_lt hr]

/-! ### The start (R170, R171) -/

theorem startNegotiation_of_free {s : State} (n : Negotiation) (hlock : s.lock = .free) :
    s.startNegotiation n = { s with
      ctr := s.ctr.set (slot (n.addr.setWidth 7)) 0
      calls := s.calls ++ [.negotiation n (.command .sync)] } := by
  simp only [State.startNegotiation, hlock, State.resetCounter, State.acquire, State.setCtr,
    State.release]

theorem startNegotiation_of_held {s : State} (n : Negotiation) (hlock : s.lock = .held) :
    s.startNegotiation n = { s with calls := s.calls ++ [.negotiation n .resetCounter] } := by
  simp only [State.startNegotiation, hlock]

theorem startNegotiation_eq (s : State) (n : Negotiation) :
    s.startNegotiation n = { s with
      ctr := if s.lock = .free then s.ctr.set (slot (n.addr.setWidth 7)) 0 else s.ctr
      calls := s.calls ++
        [.negotiation n (if s.lock = .free then .command .sync else .resetCounter)] } := by
  by_cases hlock : s.lock = .free
  · rw [startNegotiation_of_free n hlock, if_pos hlock, if_pos hlock]
  · have hheld : s.lock = .held := by cases h : s.lock <;> simp_all
    rw [startNegotiation_of_held n hheld, if_neg hlock, if_neg hlock]

section
variable {a : Byte} (retry timeout : Nat) {s : State} (ha : a.toNat ≤ 127)
  (hdown : s.downloadActive = false)
include ha hdown

/-- NEGOTIATE's outcome is a function of what it draws. -/
theorem exec_negotiate_congr {t : State} (htdown : t.downloadActive = false)
    (h : s.drawNegotiation = t.drawNegotiation) :
    exec (.negotiate a retry timeout) s = exec (.negotiate a retry timeout) t := by
  have haddr : ¬wireAddrMax < a.toNat := Nat.not_lt.mpr ha
  simp only [exec, execNegotiate, if_neg haddr, hdown, htdown, h, Bool.false_eq_true, if_false]

variable {d : Drawn} {t : State} (hdrawn : s.drawNegotiation = (d, t))
include hdrawn

/-- R161, R176: a generator of 0 has no power, and NEGOTIATE fails. -/
theorem exec_negotiate_of_zero (hg : d.g = 0) :
    exec (.negotiate a retry timeout) s = .next (t.emit (.negotiate a none)) := by
  have haddr : ¬wireAddrMax < a.toNat := Nat.not_lt.mpr ha
  have hfail : modexp d.g d.r d.m = none := if_pos (.inl hg)
  simp only [exec, execNegotiate, if_neg haddr, hdown, hdrawn, hfail, Bool.false_eq_true, if_false]

theorem exec_negotiate_of_ne_zero (hg : d.g ≠ 0) (hm : d.m ≠ 0) :
    exec (.negotiate a retry timeout) s = .next (t.startNegotiation
      ⟨a, retry, timeout, d.g, d.m, d.r,
        BitVec.ofNat 64 (d.g.toNat ^ d.r.toNat % d.m.toNat)⟩) := by
  have haddr : ¬wireAddrMax < a.toNat := Nat.not_lt.mpr ha
  have hpow := modexp_eq_pow_mod d.g d.r d.m
  rw [if_neg (not_or.mpr ⟨hg, hm⟩)] at hpow
  simp only [exec, execNegotiate, if_neg haddr, hdown, hdrawn, hpow, Bool.false_eq_true, if_false]

end

/-! ### The steps between the exchanges (R171-R176) -/

section
variable {s : State} {i : Nat} {n : Negotiation} {stage : NegStage}

theorem step_negotiation (hlegal : legalConfig s.cfg = true)
    (hc : s.calls[i]? = some (.negotiation n stage)) :
    step (Spec.moved (.call i) s) = .next (s.negotiationMove i n stage) := by
  rw [step_call hlegal]
  simp only [State.callMove, hc]

theorem negotiationMove_resetCounter (hlock : s.lock = .free) :
    s.negotiationMove i n .resetCounter = { s with
      ctr := s.ctr.set (slot (n.addr.setWidth 7)) 0
      calls := s.calls.set i (.negotiation n (.command .sync)) } := by
  simp only [State.negotiationMove, hlock, State.setCall, State.resetCounter, State.acquire, State.setCtr,
    State.release]

theorem negotiationMove_command (k : NegCommand) (hlock : s.lock = .free) :
    s.negotiationMove i n (.command k) =
      { s with calls := s.calls.eraseIdx i }.beginExchange (.negotiation n k)
        (negotiationCommand s.cfg n k) := by
  simp only [State.negotiationMove, hlock]
  rfl

theorem negotiationMove_of_held (hlock : s.lock = .held)
    (h : stage = .resetCounter ∨ ∃ k, stage = .command k) : s.negotiationMove i n stage = s := by
  rcases h with rfl | ⟨k, rfl⟩ <;> simp only [State.negotiationMove, hlock]

theorem negotiationMove_derive_of_fail {b : Word64} (h : b = 0 ∨ n.m = 0) :
    s.negotiationMove i n (.derive b) = { s with
      calls := s.calls.eraseIdx i, results := s.results ++ [.negotiate n.addr none] } := by
  have hfail : modexp b n.r n.m = none := if_pos h
  simp only [State.negotiationMove, hfail]
  rfl

theorem negotiationMove_derive {b : Word64} (hb : b ≠ 0) (hm : n.m ≠ 0) :
    s.negotiationMove i n (.derive b) = { s with
      calls := s.calls.set i
        (.negotiation n (.answer b (BitVec.ofNat 64 (b.toNat ^ n.r.toNat % n.m.toNat)))) } := by
  have hpow := modexp_eq_pow_mod b n.r n.m
  rw [if_neg (not_or.mpr ⟨hb, hm⟩)] at hpow
  simp only [State.negotiationMove, hpow]
  rfl

theorem negotiationMove_answer (b k : Word64) :
    s.negotiationMove i n (.answer b k) = { s with
      calls := s.calls.eraseIdx i, results := s.results ++ [.negotiate n.addr (some k)] } := rfl

end

/-- R172: the four payloads are short enough to be admitted. -/
theorem negotiationPayload_length_le (c : Config) (n : Negotiation) (k : NegCommand) :
    (negotiationPayload c n k).length ≤ 250 := by
  cases k <;> simp [negotiationPayload, syncPayload, generatorPayload, modulusPayload, keyExchangePayload]

end Sys2Proof.Machine
end

section
/-! The statements about NEGOTIATE (spec/41_key_negotiation.md sections 2 and 3). -/

namespace Sys2Proof.Proofs.Negotiate

open Sys2Proof Sys2Proof.Machine

/-- Settles O51: the draws fit their registers, so the registers hold the values drawn. -/
theorem negotiateStarts : Obligations.NegotiateStarts := by
  intro a retry timeout p q r rest s n hlegal ha hdown hdraws hp hq hne hr hn
  obtain ⟨_, _, ⟨_, hsecret⟩, _⟩ := (legalConfig_iff s.cfg).mp hlegal
  have hmin := toNat_ofNat_of_lt (v := min p q) (lt_of_lt_primeBits hlegal (by omega))
  have hmax := toNat_ofNat_of_lt (v := max p q) (lt_of_lt_primeBits hlegal (by omega))
  have hsec := toNat_ofNat_of_lt (Nat.lt_of_lt_of_le hr hsecret)
  have hdrawn := drawNegotiation_cons hdraws hp hq hne hr
  have hgo (h0 : min p q ≠ 0) : exec (.negotiate a retry timeout) s =
      .next (State.startNegotiation { s with draws := rest } n) := by
    have hg : BitVec.ofNat 64 (min p q) ≠ 0 := by
      rw [ne_eq, ← BitVec.toNat_inj, hmin]
      exact h0
    have hm : BitVec.ofNat 64 (max p q) ≠ 0 := by
      rw [ne_eq, ← BitVec.toNat_inj, hmax]
      show ¬max p q = 0
      omega
    rw [exec_negotiate_of_ne_zero retry timeout ha hdown hdrawn hg hm, hmin, hmax, hsec, hn]
  refine ⟨fun h0 => ?_, fun h0 hlock => ?_, fun h0 hlock => ?_⟩
  · have hg : BitVec.ofNat 64 (min p q) = 0 := by rw [h0]; rfl
    rw [exec_negotiate_of_zero retry timeout ha hdown hdrawn hg, State.emit]
  · rw [hgo h0, startNegotiation_of_free (s := { s with draws := rest }) n hlock, hn]
  · rw [hgo h0, startNegotiation_of_held (s := { s with draws := rest }) n hlock]

/-- Settles O52: whatever is drawn lies in its range, and the generator decides. -/
theorem negotiateDrawsInRange : Obligations.NegotiateDrawsInRange := by
  intro a retry timeout s hlegal
  refine ⟨fun ha => ?_, fun ha hdown => ?_, fun ha hdown => ⟨?_, fun p q rest hpq => ?_⟩⟩
  · rw [exec_negotiate_of_invalid_addr retry timeout s ha]
    exact refused_refuse s .invalidAddress
  · rw [exec_negotiate_of_downloadActive retry timeout ha hdown]
    exact refused_refuse s .downloadActive
  · obtain ⟨draws, drawCount, hframe⟩ := drawNegotiation_frame s
    have hdrawn : s.drawNegotiation =
        (s.drawNegotiation.1, { s with draws := draws, drawCount := drawCount }) :=
      Prod.ext rfl hframe
    obtain ⟨hgm, hm, hr⟩ := drawNegotiation_range s hlegal
    refine ⟨draws, drawCount, fun hg => ?_, fun hg => ?_⟩
    · rw [exec_negotiate_of_zero retry timeout ha hdown hdrawn hg, State.emit]
    have hpos : 0 < s.drawNegotiation.1.g.toNat := toNat_pos_of_ne_zero hg
    have hmne : s.drawNegotiation.1.m ≠ 0 := by
      rw [ne_eq, ← BitVec.toNat_inj]
      show ¬s.drawNegotiation.1.m.toNat = 0
      omega
    have hpow : s.drawNegotiation.1.g.toNat ^ s.drawNegotiation.1.r.toNat %
        s.drawNegotiation.1.m.toNat < 2 ^ 64 :=
      Nat.lt_trans (Nat.mod_lt _ (by omega)) s.drawNegotiation.1.m.isLt
    refine ⟨⟨a, retry, timeout, s.drawNegotiation.1.g, s.drawNegotiation.1.m, s.drawNegotiation.1.r, _⟩,
      rfl, hpos, hgm, hm, hr, toNat_ofNat_of_lt hpow, rfl, rfl, rfl, ?_⟩
    rw [exec_negotiate_of_ne_zero retry timeout ha hdown hdrawn hg hmne]
    exact congrArg _ (startNegotiation_eq { s with draws := draws, drawCount := drawCount } _)
  · exact exec_negotiate_congr (s := { s with draws := p :: q :: rest })
      (t := { s with draws := rest }) retry timeout ha hdown hdown (drawNegotiation_of_equal hpq)

/-- Settles O53: each stage's own step. -/
theorem negotiationAdvances : Obligations.NegotiationAdvances := by
  intro s i n stage hlegal hc
  rw [step_negotiation hlegal hc]
  refine ⟨?_, ?_, fun hlock hstage => ?_, ?_, ?_⟩
  · rintro rfl hlock
    rw [negotiationMove_resetCounter hlock]
  · rintro k payload rfl hlock hpayload
    obtain rfl : payload = negotiationPayload s.cfg n k := hpayload.trans (by cases k <;> rfl)
    rw [negotiationMove_command k hlock]
    refine ⟨fun hdown => ?_, fun hdown haddr => ?_⟩
    · rw [beginExchange_of_refused (s := { s with calls := s.calls.eraseIdx i }) _ hlock
        (admission_of_downloadActive hdown)]
      exact refused_refuse _ _
    · exact congrArg _ (beginExchange_of_plain (s := { s with calls := s.calls.eraseIdx i }) _ hdown
        haddr rfl (negotiationPayload_length_le s.cfg n k))
  · rw [negotiationMove_of_held hlock hstage]
  · rintro b rfl
    exact ⟨fun h => by rw [negotiationMove_derive_of_fail h],
      fun hb hm => by rw [negotiationMove_derive hb hm]⟩
  · rintro b k rfl
    rw [negotiationMove_answer]

/-- Settles O54: both sides raise the generator to the product of the two secrets. -/
theorem negotiatedKeysAgree : Obligations.NegotiatedKeysAgree := by
  intro s i b n peer hlegal hc hm hpeer ha hb
  have hmpos : 0 < n.m.toNat := toNat_pos_of_ne_zero hm
  have hkey : (BitVec.ofNat 64 (peer.toNat ^ n.r.toNat % n.m.toNat)).toNat =
      peer.toNat ^ n.r.toNat % n.m.toNat :=
    toNat_ofNat_of_lt (Nat.lt_trans (Nat.mod_lt _ hmpos) n.m.isLt)
  have hshared : peer.toNat ^ n.r.toNat % n.m.toNat = n.g.toNat ^ (b * n.r.toNat) % n.m.toNat := by
    rw [hb, ← Nat.pow_mod, ← Nat.pow_mul]
  have hdevice : n.a.toNat ^ b % n.m.toNat = n.g.toNat ^ (b * n.r.toNat) % n.m.toNat := by
    rw [ha, ← Nat.pow_mod, ← Nat.pow_mul, Nat.mul_comm]
  have hi : i < s.calls.length := (List.getElem?_eq_some_iff.mp hc).1
  refine ⟨_, _, _, (step_negotiation hlegal hc).trans (congrArg _ (negotiationMove_derive hpeer hm)),
    step_negotiation (n := n) hlegal (List.getElem?_set_self hi), ?_, hkey.trans hshared, ?_⟩
  · rw [hkey, hshared, hdevice]
  · rw [negotiationMove_answer, List.eraseIdx_set_eq]

end Sys2Proof.Proofs.Negotiate
end
